-- ==== Sys2Proof/Word.lean ====
section
/-! DEFINITION. The word types of the block and the exact rational the setup registers hold. -/

namespace Sys2Proof

/-- One byte of the configuration image (`20_memory.md` R60). -/
abbrev Byte := BitVec 8

/-- The `s32` datapath word (`00_scope.md` R10, `W = 32`); also the `u32` registers. -/
abbrev Word := BitVec 32

/-- The `s64` envelope level and filter accumulator (`LEVEL_W`, `ACC_W`). -/
abbrev Wide := BitVec 64

/-- An exact non-negative rational `num / den`, kept unreduced: what `VS.sps` holds (`10_state.md` R41). -/
structure Ratio where
  num : Nat
  den : Nat
deriving DecidableEq, Repr, Inhabited

end Sys2Proof
end

