-- ==== Sys2Proof/Config.lean ====
section
/-! DEFINITION. The OPEN parameters of `00_scope.md` section 5, as constants without a body, and the records `Num`
and `Params` that gather what a render reads. The sourced and decided constants, and the parameters of this
implementation built from both, stand in `Machine/Params.lean`. -/

namespace Sys2Proof

/-! ### OPEN parameters (log 9, log 10): no value is asserted -/

/-- `MIN_DURATION - 1`: the parameter itself is at least 1. -/
opaque Config.minDurationLess1 : Nat
/-- The numerator of `PHASE_SCALE`, less 1. -/
opaque Config.phaseScaleNum : Nat
/-- The denominator of `PHASE_SCALE`, less 1. -/
opaque Config.phaseScaleDen : Nat
/-- The numerator of `pitchRatio(d)`, less 1, for `d` other than 0. -/
opaque Config.pitchRatioNum : Int → Nat
/-- The denominator of `pitchRatio(d)`, less 1, for `d` other than 0. -/
opaque Config.pitchRatioDen : Int → Nat
/-- The content of the sine table, before its contract `|SINE[p]| <= 16384`. -/
opaque Config.sineEntry : Nat → Int
/-- Whether an entry of the noise table is +1 (else -1). -/
opaque Config.noisePositive : Nat → Bool
/-- The numerator of `UNITY_DB_SCALE`, less 1. -/
opaque Config.unityDbNum : Nat
/-- The denominator of `UNITY_DB_SCALE`, less 1. -/
opaque Config.unityDbDen : Nat
/-- The numerator of `MAG_DB_SCALE`, less 1. -/
opaque Config.magDbNum : Nat
/-- The denominator of `MAG_DB_SCALE`, less 1. -/
opaque Config.magDbDen : Nat
/-- The numerator of `PHASE_OCT_SCALE`, less 1. -/
opaque Config.phaseOctNum : Nat
/-- The denominator of `PHASE_OCT_SCALE`, less 1. -/
opaque Config.phaseOctDen : Nat
/-- `Num.pow10`. -/
opaque Config.pow10Of : Rat → Rat
/-- `Num.exp2`. -/
opaque Config.exp2Of : Rat → Rat
/-- `Num.cos`. -/
opaque Config.cosOf : Rat → Rat
/-- `Num.PI`. -/
opaque Config.piValue : Rat
/-- The real addition of `Num`. -/
opaque Config.addOf : Rat → Rat → Rat
/-- The real multiplication of `Num`. -/
opaque Config.mulOf : Rat → Rat → Rat
/-- The real division of `Num`, by the constants of the formulas. -/
opaque Config.divOf : Rat → Rat → Rat
/-- `POOL_CAPACITY - 1`. -/
opaque Config.poolCapacityLess1 : Nat
/-- `POOL_MAX - 1`. -/
opaque Config.poolMaxLess1 : Nat
/-- `OUT_CAPACITY`; `none` is unbounded. -/
opaque Config.outCapacityOf : Option Nat
/-- Whether the platform can supply a buffer of so many words (`45_mixer.md` R331, `60_exceptions.md` R347; log 17). -/
opaque Config.suppliesOf : Nat → Bool
/-- What a host read of `MB` or `OUT.len` returns while `STATUS.done = 0`, by index
(`93_implementation_defined.md` U6): any value. -/
opaque Config.invalidRead : Nat → Word

/-! ### The records operations take -/

/-- The numerics record of `00_scope.md` R15: the real functions of the coefficient conversion, over rationals
(log 10). Nothing is assumed of any of them but that its result depends on its arguments alone. -/
structure Num where
  pow10 : Rat → Rat
  exp2 : Rat → Rat
  cos : Rat → Rat
  pi : Rat
  add : Rat → Rat → Rat
  mul : Rat → Rat → Rat
  div : Rat → Rat → Rat

/-- The parameters a render reads. -/
structure Params where
  minDuration : Nat
  phaseScale : Ratio
  pitchRatio : Int → Ratio
  sine : Nat → Int
  noise : Nat → Int
  unityDbScale : Rat
  magDbScale : Rat
  phaseOctScale : Rat
  num : Num
  poolCapacity : Nat
  poolMax : Nat
  outCapacity : Option Nat
  supplies : Nat → Bool
  gateShift : Nat
  gateInitMuted : Bool
  ffTapBase : Nat
  baseUsesPitchRatio : Bool

end Sys2Proof
end

