-- ==== Sys2Proof/Machine/Params.lean ====
section
/-! DEFINITION. The sourced and decided constants of `00_scope.md` section 5 with their values, and `Config.params`,
the parameters of this implementation: operations take a `Params`, `exec` runs them at `Config.params`. -/

namespace Sys2Proof

/-! ### Sourced constants -/

/-- `SAMPLE_RATE`, samples per second. -/
def Config.sampleRate : Nat := 22050
/-- `NUM_SLOTS`. -/
def Config.numSlots : Nat := 10
/-- `MAX_PARTIALS`. -/
def Config.maxPartials : Nat := 10
/-- `MAX_POLES`. -/
def Config.maxPoles : Nat := 4
/-- `LEVEL_SHIFT`, fraction bits of the envelope level (`41_envelope.md` R171). -/
def Config.levelShift : Nat := 15
/-- `PHASE_MASK`, `CYCLE - 1` (`42_oscillator_lfo.md` R192). -/
def Config.phaseMask : Word := 0x7FFF
/-- `SQUARE_SPLIT` (`42_oscillator_lfo.md` R194). -/
def Config.squareSplit : Nat := 8192
/-- `NOISE_DIV` (`42_oscillator_lfo.md` R197). -/
def Config.noiseDiv : Nat := 2607
/-- `GATE_INC` (`43_voice_stages.md` R240). -/
def Config.gateInc : Word := 256
/-- `FLT_CHUNK` (`44_filter.md` R275). -/
def Config.fltChunk : Nat := 128
/-- `BASE_FREQ` in Hz (`44_filter.md` R265). -/
def Config.baseFreq : Rat := 32703197 / 1000000
/-- `HEUR_START_MAX` (`40_config_load.md` R144). -/
def Config.heurStartMax : Nat := 10000000
/-- `HEUR_SEG_MAX` (`40_config_load.md` R144). -/
def Config.heurSegMax : Nat := 15
/-- `HEUR_MIN_BYTES` (`40_config_load.md` R144). -/
def Config.heurMinBytes : Nat := 10

/-! ### Decided constants (log 11) -/

/-- `USMART_ONE_MAX`: the largest first byte of a one-byte smart integer (`30_encoding.md` R101, R102). -/
def Config.smartOneMax : Nat := 127
/-- `USMART_OFFSET` (`30_encoding.md` R101). -/
def Config.usmartOffset : Int := 32768
/-- `SSMART_BIAS` (`30_encoding.md` R102). -/
def Config.ssmartBias : Int := 64
/-- `SSMART_OFFSET` (`30_encoding.md` R102). PRESUMED: the spec marks 49152 as general knowledge. -/
def Config.ssmartOffset : Int := 49152
/-- `GATE_SHIFT` (`43_voice_stages.md` R241). PRESUMED: the spec marks 8 as general knowledge. -/
def Config.gateShift : Nat := 8
/-- `GATE_INIT_MUTED` (`43_voice_stages.md` R239). PRESUMED: the spec marks it as general knowledge. -/
def Config.gateInitMuted : Bool := true
/-- `FF_TAP_BASE` (`44_filter.md` R273). -/
def Config.ffTapBase : Nat := 0
/-- `BASE_USES_PITCH_RATIO` (`42_oscillator_lfo.md` R203). -/
def Config.baseUsesPitchRatio : Bool := true

/-! ### The parameters of this implementation -/

/-- The contract `|SINE[p]| <= 16384` of `10_state.md` R43, put on any table. -/
def Config.boundSine (x : Int) : Int := max (-16384) (min 16384 x)

/-- `pitchRatio` with `pitchRatio(0) = 1` and positive values. -/
def Config.pitchRatio (d : Int) : Ratio :=
  if d = 0 then ⟨1, 1⟩ else ⟨Config.pitchRatioNum d + 1, Config.pitchRatioDen d + 1⟩

/-- `Num` of this implementation. -/
def Config.num : Num where
  pow10 := Config.pow10Of
  exp2 := Config.exp2Of
  cos := Config.cosOf
  pi := Config.piValue
  add := Config.addOf
  mul := Config.mulOf
  div := Config.divOf

/-- The parameters of this implementation: every OPEN one unconstrained but for its stated contract. A buffer of 0 words
is always supplied (log 17). -/
def Config.params : Params where
  minDuration := Config.minDurationLess1 + 1
  phaseScale := ⟨Config.phaseScaleNum + 1, Config.phaseScaleDen + 1⟩
  pitchRatio := Config.pitchRatio
  sine p := Config.boundSine (Config.sineEntry p)
  noise j := if Config.noisePositive j then 1 else -1
  unityDbScale := ((Config.unityDbNum + 1 : Nat) : Rat) / ((Config.unityDbDen + 1 : Nat) : Rat)
  magDbScale := ((Config.magDbNum + 1 : Nat) : Rat) / ((Config.magDbDen + 1 : Nat) : Rat)
  phaseOctScale := ((Config.phaseOctNum + 1 : Nat) : Rat) / ((Config.phaseOctDen + 1 : Nat) : Rat)
  num := Config.num
  poolCapacity := Config.poolCapacityLess1 + 1
  poolMax := Config.poolMaxLess1 + 1
  outCapacity := Config.outCapacityOf
  supplies size := size == 0 || Config.suppliesOf size
  gateShift := Config.gateShift
  gateInitMuted := Config.gateInitMuted
  ffTapBase := Config.ffTapBase
  baseUsesPitchRatio := Config.baseUsesPitchRatio

end Sys2Proof
end

