-- ==== Sys2Proof/Machine/Arith.lean ====
section
/-! DEFINITION. The arithmetic of `00_scope.md` R10 to R12 and R15, the conversion of milliseconds to samples, and the
ascending and descending loops the rules write. -/

namespace Sys2Proof.Machine

/-- `wrap32` of a mathematical integer (`00_scope.md` R10). -/
def wrap32 (x : Int) : Word := BitVec.ofInt 32 x

/-- `a >> k` on an `s32`: the arithmetic shift (`00_scope.md` R11). -/
def asr (a : Word) (k : Nat) : Word := a.sshiftRight k

/-- `tdiv(a, b)` of two integers, toward zero (`00_scope.md` R11). -/
def tdiv (a b : Int) : Int := Int.tdiv a b

/-- `trunc` of the exact rational `num / den` with `den > 0` (`00_scope.md` R11, R15). -/
def truncDiv (num : Int) (den : Nat) : Int := tdiv num den

/-- `trunc` of a rational (`00_scope.md` R11). -/
def truncRat (r : Rat) : Int := tdiv r.num r.den

/-- The one clipping function of the block (`00_scope.md` R12). -/
def clip16 (x : Word) : Word :=
  if x.toInt < -32768 then wrap32 (-32768) else if 32767 < x.toInt then wrap32 32767 else x

/-- `ms2s(x) = tdiv(x * 22050, 1000)` (`43_voice_stages.md` R230). -/
def ms2s (x : Nat) : Nat := x * Config.sampleRate / 1000

/-- `for n in start..start+count-1` ascending. -/
def forUp {σ : Type} (body : Nat → σ → σ) : Nat → Nat → σ → σ
  | _, 0, s => s
  | start, count + 1, s => forUp body (start + 1) count (body start s)

/-- `for n in start+count-1 downto start`. -/
def forDown {σ : Type} (body : Nat → σ → σ) (start : Nat) : Nat → σ → σ
  | 0, s => s
  | count + 1, s => forDown body start count (body (start + count) s)

end Sys2Proof.Machine
end

