-- ==== Sys2Proof/Syntax.lean ====
section
/-! DEFINITION. The syntax: one constructor per row of spec/opcode_table.json. The 45 operations carry no operand
bits (`30_encoding.md` R112); the image rows carry the fields their row gives. -/

namespace Sys2Proof

/-- A smart integer as it stands in the image: the one-byte form `0vvvvvvv` or the two-byte form `1vvvvvvvvvvvvvvv`
(`30_encoding.md` R101, R102). The two kinds share their bits and differ in the value. -/
inductive Smart where
  | one (v : BitVec 7)
  | two (v : BitVec 15)
deriving DecidableEq, Repr

/-- Where the sequencer, or the loader's cursor, stands: what the next byte is read as (`30_encoding.md` R90 to R112).
`operation` is a code of R112 in the command register; the rest are places of the image grammar. -/
inductive Place where
  | operation
  | waveform
  | slot
  | envHeader
  | segment
  | pair
  | usmart
  | ssmart
  | oscillator
  | echo
  | times
  | filter
  | pole
  | cutoff
  | loop
deriving DecidableEq, Repr

inductive Instr where
  -- CMD family
  | cmdLoad
  | cmdRender
  | cmdReset
  -- CFG family
  | cfgLoad
  | cfgSlot
  | cfgVoice
  | cfgEnvrec
  | cfgOptpair
  | cfgPartials
  | cfgEchorec
  | cfgTimes
  | cfgFilter
  | cfgLooksenv
  | cfgFilterbody
  | cfgCutenv
  | cfgLooprec
  | cfgNormalise
  -- ENV family
  | envReset
  | envEval
  -- GEN, LFO and OSC families
  | genOff
  | genSquare
  | genSine
  | genSaw
  | genNoise
  | lfoVib
  | lfoTrem
  | oscPartial
  | oscSample
  -- VOICE, GATE and ECHO families
  | voiceSetup
  | voiceSynth
  | gateInit
  | gateStep
  | echoApply
  | voiceClip
  | voiceRender
  -- FLT family
  | fltCoef
  | fltStep
  | fltApply
  -- MIX and POOL families
  | mixLen
  | mixAcc
  | mixLoop
  | mixClip
  | mixRender
  | poolAcquire
  | poolRelease
  -- waveform ids
  | wfOff
  | wfSquare
  | wfSine
  | wfSaw
  | wfNoise
  | wfReservedAsOff (w : Byte)
  -- records and fields of the image
  | imgSlotEmpty
  | imgSlotVoice (v : Byte)
  | imgEnvHeader (w : Byte) (start stop : Word) (n : Byte)
  | imgSegment (dur peak : BitVec 16)
  | imgPairAbsent
  | imgPairPresent (v : Byte)
  | usmart1 (v : BitVec 7)
  | usmart2 (v : BitVec 15)
  | ssmart1 (v : BitVec 7)
  | ssmart2 (v : BitVec 15)
  | imgPartial (amplitude pitchOffset delay : Smart)
  | imgPartialEnd (amplitude : Smart)
  | imgEcho (delay mix : Smart)
  | imgTimes (duration start : BitVec 16)
  | imgFilterAbsent
  | imgFilterHeader (count0 count1 : BitVec 4) (gain0 gain1 : BitVec 16) (mask : Byte)
  | imgPole (phase magnitude : BitVec 16)
  | imgCutoffEnv (n : Byte)
  | imgLoop (first last : BitVec 16)
deriving DecidableEq, Repr

end Sys2Proof
end

