-- ==== Sys2Proof/Machine/State.lean ====
section
/-! DEFINITION. The state of the block as plain data: every register `10_state.md` names, the sample memories, the
image, the pool, and the model's own latches (`pending`, `io`, `ldr`; log 2, log 3, log 4). With it the faults, the
refusals and the state after reset. -/

namespace Sys2Proof.Machine

/-! ### Why a step can stop -/

/-- The faults of the model. The block itself has none: its exceptions are next states (`60_exceptions.md`). -/
inductive Fault where
  /-- A loader operation read a byte of `IMG` below `CFG.len` that nothing has written: state that holds no value
  (`10_state.md` R50; `93_implementation_defined.md` U5 says `fault`). Raised by `memRead` and `imgPeek`. Safe. -/
  | imgNoValue (addr : Nat)
  /-- An operation performed by itself would read an index of `VB` at or beyond its length, a released buffer
  included: state that holds no value (`10_state.md` R50; `93_implementation_defined.md` U5 says `fault`). Raised by
  `needVb`. Safe. -/
  | vbNoValue
  /-- The same for `MB`. Raised by `needMb`. Safe. -/
  | mbNoValue
deriving DecidableEq, Repr

/-- The refusals of the model. -/
inductive Refusal where
  /-- An instruction without a meaning. No arm of `exec` answers it. Safe. -/
  | notModelled (mnemonic : String)
  /-- `step` stands at an operation code that names nothing (`30_encoding.md` R112; `93_implementation_defined.md`
  I14): raised by `step`. Safe. -/
  | unassignedCode (code : Byte)
deriving DecidableEq, Repr

/-! ### Configuration records -/

/-- `E.waveform`, u3 with the five legal values (`10_state.md` R32, `30_encoding.md` R105). -/
inductive Waveform where
  | off
  | square
  | sine
  | saw
  | noise
deriving DecidableEq, Repr

/-- `E.seg[j]` (`10_state.md` R32). -/
structure Segment where
  dur : BitVec 16
  peak : Word
deriving DecidableEq, Repr

/-- An envelope record (`10_state.md` R32). `stop` is `E.end`; `E.nseg` is the number of segments (log 27). -/
structure Envelope where
  waveform : Waveform
  start : Word
  stop : Word
  segs : List Segment
deriving DecidableEq, Repr

/-- An optional pair of envelopes: an LFO `(rate, depth)` or the gate `(silence, duration)`
(`10_state.md` R31, R33). -/
structure EnvPair where
  present : Bool
  first : Envelope
  second : Envelope
deriving DecidableEq, Repr

/-- A partial record (`10_state.md` R34). -/
structure Partial where
  amplitude : BitVec 15
  pitchOffset : BitVec 16
  delay : BitVec 15
deriving DecidableEq, Repr

/-- One pole at one endpoint: `F.polePhase`, `F.poleMagnitude` (`10_state.md` R36). -/
structure Pole where
  phase : BitVec 16
  magnitude : BitVec 16
deriving DecidableEq, Repr

/-- A filter channel: `F.poleCount[ch]` and its poles at endpoint 0 (`first`) and endpoint 1 (`last`)
(`10_state.md` R36). -/
structure Channel where
  count : BitVec 4
  first : Vector Pole 4
  last : Vector Pole 4
deriving DecidableEq, Repr

/-- The filter record (`10_state.md` R36): channel 0 is `ff` (feedforward), channel 1 is `fb` (feedback). -/
structure Filter where
  ff : Channel
  fb : Channel
  gain0 : BitVec 16
  gain1 : BitVec 16
  cutoffPresent : Bool
  cutoff : Envelope
deriving DecidableEq, Repr

/-- The voice record of a slot (`10_state.md` R31). -/
structure Voice where
  frequency : Envelope
  amplitude : Envelope
  pitchLfo : EnvPair
  amplitudeLfo : EnvPair
  gate : EnvPair
  partials : List Partial
  echoDelay : BitVec 15
  echoMix : BitVec 15
  duration : BitVec 16
  start : BitVec 16
  filterPresent : Bool
  filter : Filter
deriving DecidableEq, Repr

/-- `CFG.slot[v]` (`10_state.md` R30). -/
structure Slot where
  valid : Bool
  voice : Voice
deriving DecidableEq, Repr

/-- The configuration registers (`10_state.md` R30, R37, R38, R53, R26). -/
structure Cfg where
  slot : Vector Slot 10
  loopBegin : BitVec 16
  loopEnd : BitVec 16
  loopCount : Word
  pos : Word
  len : Word
  trunc : Bool
deriving DecidableEq, Repr

/-! ### Sequencer and status -/

/-- `SEQ.state` (`10_state.md` R24). -/
inductive SeqState where
  | idle
  | loading
  | rendering
  | done
  | error
deriving DecidableEq, Repr

/-- `SEQ.stage` (`10_state.md` R24). -/
inductive Stage where
  | setup
  | synth
  | gate
  | echo
  | filter
  | clip
  | acc
  | loop
  | finalClip
deriving DecidableEq, Repr

/-- The sequencer position (`10_state.md` R24). -/
structure Seq where
  state : SeqState
  voice : Fin 10
  stage : Stage
  n : Word
  i : Fin 10
deriving DecidableEq, Repr

/-- `STATUS` (`10_state.md` R26, R40). -/
structure Status where
  busy : Bool
  done : Bool
  error : Bool
  warn : Bool
deriving DecidableEq, Repr

/-! ### Working registers -/

/-- The role `e` of an evaluator instance (`10_state.md` R22). -/
inductive Role where
  | freq
  | amp
  | vibr
  | vibd
  | trmr
  | trmd
  | gsil
  | gdur
  | cut
deriving DecidableEq, Repr

/-- The five registers of an evaluator instance (`10_state.md` R22). -/
structure EnvRegs where
  level : Wide
  delta : Wide
  thr : Word
  idx : BitVec 8
  ticks : Word
deriving DecidableEq, Repr

/-- The nine evaluator instances (`10_state.md` R22, `41_envelope.md` R170). -/
structure EnvBank where
  freq : EnvRegs
  amp : EnvRegs
  vibr : EnvRegs
  vibd : EnvRegs
  trmr : EnvRegs
  trmd : EnvRegs
  gsil : EnvRegs
  gdur : EnvRegs
  cut : EnvRegs
deriving DecidableEq, Repr

/-- The oscillator registers (`10_state.md` R23). -/
structure Osc where
  phase : Vector Word 10
  vibPhase : Word
  tremPhase : Word
deriving DecidableEq, Repr

/-- The gate registers (`10_state.md` R27). -/
structure GateRegs where
  ctr : Word
  muted : Bool
  thr : Word
deriving DecidableEq, Repr

/-- The filter registers (`10_state.md` R29): `ff` is `FLT.coef[0]`, `fb` is `FLT.coef[1]`. -/
structure FltRegs where
  g : Word
  ff : Vector Word 8
  fb : Vector Word 8
  tval : Word
  acc : Wide
deriving DecidableEq, Repr

/-- The mixer registers (`10_state.md` R54): `single` is `MIX.S`. -/
structure MixRegs where
  single : Word
  total : Word
  loopValid : Bool
  reps : Word
deriving DecidableEq, Repr

/-- The derived per-voice setup registers (`10_state.md` R41): `count` is `VS.N`. -/
structure VoiceRegs where
  count : Word
  sps : Ratio
  delay : Vector Word 10
  vol : Vector Word 10
  inc : Vector Word 10
  base : Vector Word 10
  vibStep : Word
  vibBase : Word
  tremStep : Word
  tremBase : Word
  echoDelay : Word
deriving DecidableEq, Repr

/-! ### Memories -/

/-- A sample buffer: its words (`10_state.md` R46 to R48) and the length of the array that the pool gave for it
(`45_mixer.md` R331, R332). -/
structure Buffer where
  words : List Word
  array : Nat
deriving DecidableEq, Repr

/-- The configuration image: the bytes that have been written, by address, addresses strictly rising. A byte that is
not listed holds no value (log 8). -/
abbrev Image := List Host.Cell

/-! ### The model's own latches -/

/-- Operands and results of an operation performed by itself: no operation's code has operand bits
(`30_encoding.md` R112), so the model latches what the spec writes beside the mnemonic (log 3). An operation that
another operation performs as a part takes its operands directly and leaves the latches alone. -/
structure Ports where
  /-- Operand `e` of `ENV.RESET`, `ENV.EVAL`. -/
  role : Role
  /-- Operand `period` of `ENV.EVAL`. -/
  period : Word
  /-- Result of `ENV.EVAL`. -/
  value : Word
  /-- Operand `amp` of `GEN.*`. -/
  amp : Word
  /-- Operand `phase` of `GEN.*`. -/
  phase : Word
  /-- Result `s` of `GEN.*`. -/
  sample : Word
  /-- Operand `f` of `LFO.VIB` and `OSC.PARTIAL`, result `f'` of `LFO.VIB`. -/
  freq : Word
  /-- Operand `a` of `LFO.TREM` and `OSC.PARTIAL`, result `a'` of `LFO.TREM`. -/
  ampl : Word
  /-- Operand `size` of `POOL.ACQUIRE`. -/
  size : Word
  /-- Result of `POOL.ACQUIRE`, operand of `POOL.RELEASE`. -/
  buf : Buffer
  /-- Result of `CFG.ENVREC`, `CFG.CUTENV`, first result of `CFG.OPTPAIR`; the record that envelope rows fill. -/
  env1 : Envelope
  /-- Second result of `CFG.OPTPAIR`. -/
  env2 : Envelope
  /-- Result `present` of `CFG.OPTPAIR`. -/
  present : Bool
  /-- Result of `CFG.LOOKSENV`. -/
  looksEnv : Bool
  /-- Result of the smart-integer field decoders. -/
  smart : Word
deriving DecidableEq, Repr

/-- Which pole of a filter record: the endpoint (`last` is endpoint 1), the channel (`feedback` is channel 1) and the
pole index. -/
structure PoleAt where
  last : Bool
  feedback : Bool
  p : Fin 4
deriving DecidableEq, Repr

/-- The loader's place inside the record it fills (log 4). -/
structure Loader where
  /-- The slot `v` that the loader's operations and the image rows fill. -/
  slot : Fin 10
  /-- Segments still to come of the envelope record in `io.env1`. -/
  left : BitVec 8
  /-- The modulation mask of the filter record being read: it is consumed by the loader (`10_state.md` R36). -/
  mask : Byte
  /-- The pole pairs still to come of the filter record being read. -/
  plan : List PoleAt
deriving DecidableEq, Repr

/-! ### The state -/

/-- The state of the block. -/
structure State where
  seq : Seq
  cmd : Byte
  pending : Option Place
  status : Status
  errCause : Byte
  warnCount : BitVec 16
  warnMask : Byte
  outLen : Word
  cfg : Cfg
  env : EnvBank
  osc : Osc
  gate : GateRegs
  flt : FltRegs
  mix : MixRegs
  vs : VoiceRegs
  vb : Buffer
  mb : Buffer
  img : Image
  pool : List Nat
  io : Ports
  ldr : Loader
deriving DecidableEq, Repr

/-! ### Reset -/

/-- A record that holds no value: every field 0 (log 5, log 6). -/
def Envelope.blank : Envelope := ⟨.off, 0, 0, []⟩

/-- An absent optional pair. -/
def EnvPair.blank : EnvPair := ⟨false, Envelope.blank, Envelope.blank⟩

def Pole.blank : Pole := ⟨0, 0⟩

def Channel.blank : Channel := ⟨0, Vector.replicate 4 Pole.blank, Vector.replicate 4 Pole.blank⟩

/-- A filter record that holds no value. -/
def Filter.blank : Filter := ⟨Channel.blank, Channel.blank, 0, 0, false, Envelope.blank⟩

/-- A voice record that holds no value. -/
def Voice.blank : Voice where
  frequency := Envelope.blank
  amplitude := Envelope.blank
  pitchLfo := EnvPair.blank
  amplitudeLfo := EnvPair.blank
  gate := EnvPair.blank
  partials := []
  echoDelay := 0
  echoMix := 0
  duration := 0
  start := 0
  filterPresent := false
  filter := Filter.blank

/-- An empty slot. -/
def Slot.blank : Slot := ⟨false, Voice.blank⟩

/-- No buffer held. -/
def Buffer.blank : Buffer := ⟨[], 0⟩

def EnvRegs.zero : EnvRegs := ⟨0, 0, 0, 0, 0⟩

/-- The state after reset (`70_reset_and_hazards.md` R380): `IDLE`, the empty patch, `loopCount = 1`, cleared status.
Every register for which the spec gives no value holds 0, and no buffer is held (DESIGN CHOICE, log 5). -/
def State.reset : State where
  seq := ⟨.idle, 0, .setup, 0, 0⟩
  cmd := 0
  pending := Option.none
  status := ⟨false, false, false, false⟩
  errCause := 0
  warnCount := 0
  warnMask := 0
  outLen := 0
  cfg :=
    { slot := Vector.replicate 10 Slot.blank, loopBegin := 0, loopEnd := 0, loopCount := 1
      pos := 0, len := 0, trunc := false }
  env :=
    ⟨EnvRegs.zero, EnvRegs.zero, EnvRegs.zero, EnvRegs.zero, EnvRegs.zero, EnvRegs.zero, EnvRegs.zero, EnvRegs.zero,
      EnvRegs.zero⟩
  osc := ⟨Vector.replicate 10 0, 0, 0⟩
  gate := ⟨0, false, 0⟩
  flt := ⟨0, Vector.replicate 8 0, Vector.replicate 8 0, 0, 0⟩
  mix := ⟨0, 0, false, 0⟩
  vs :=
    { count := 0, sps := ⟨0, 1⟩
      delay := Vector.replicate 10 0, vol := Vector.replicate 10 0
      inc := Vector.replicate 10 0, base := Vector.replicate 10 0
      vibStep := 0, vibBase := 0, tremStep := 0, tremBase := 0, echoDelay := 0 }
  vb := Buffer.blank
  mb := Buffer.blank
  img := []
  pool := []
  io :=
    { role := .freq, period := 0, value := 0, amp := 0, phase := 0, sample := 0, freq := 0, ampl := 0
      size := 0, buf := Buffer.blank, env1 := Envelope.blank, env2 := Envelope.blank
      present := false, looksEnv := false, smart := 0 }
  ldr := ⟨0, 0, 0, []⟩

end Sys2Proof.Machine
end

