-- ==== Sys2Proof/Machine/Ops.lean ====
section
/-! DEFINITION. The shared operations over the state: one update per register group, the image, the sample buffers,
the pool, and the entry of an exception (`60_exceptions.md`). -/

namespace Sys2Proof.Machine

/-! ### Updates, one per register group -/

def State.setSeq (s : State) (x : Seq) : State := { s with seq := x }
def State.setCmd (s : State) (x : Byte) : State := { s with cmd := x }
def State.setPending (s : State) (x : Option Place) : State := { s with pending := x }
def State.setStatus (s : State) (x : Status) : State := { s with status := x }
def State.setErrCause (s : State) (x : Byte) : State := { s with errCause := x }
def State.setWarn (s : State) (count : BitVec 16) (mask : Byte) : State :=
  { s with warnCount := count, warnMask := mask }
def State.setOutLen (s : State) (x : Word) : State := { s with outLen := x }
def State.setCfg (s : State) (x : Cfg) : State := { s with cfg := x }
def State.setEnv (s : State) (x : EnvBank) : State := { s with env := x }
def State.setOsc (s : State) (x : Osc) : State := { s with osc := x }
def State.setGate (s : State) (x : GateRegs) : State := { s with gate := x }
def State.setFlt (s : State) (x : FltRegs) : State := { s with flt := x }
def State.setMix (s : State) (x : MixRegs) : State := { s with mix := x }
def State.setVs (s : State) (x : VoiceRegs) : State := { s with vs := x }
def State.setVb (s : State) (x : Buffer) : State := { s with vb := x }
def State.setMb (s : State) (x : Buffer) : State := { s with mb := x }
def State.setImg (s : State) (x : Image) : State := { s with img := x }
def State.setPool (s : State) (x : List Nat) : State := { s with pool := x }
def State.setIo (s : State) (x : Ports) : State := { s with io := x }
def State.setLdr (s : State) (x : Loader) : State := { s with ldr := x }

/-! ### Registers of ten, and the sequencer position -/

/-- Element `i` of a register array. -/
def vget {α : Type} {n : Nat} (v : Vector α n) (i : Fin n) : α := v[i.val]

/-- A register array with element `i` written. -/
def vset {α : Type} {n : Nat} (v : Vector α n) (i : Fin n) (x : α) : Vector α n := v.set i.val x i.isLt

/-- A register array with the values of a list in its first elements, the others as before. -/
def overlay {α : Type} {n : Nat} (v : Vector α n) (l : List α) : Vector α n :=
  Vector.ofFn (fun i => (l[i.val]?).getD (vget v i))

/-- `SEQ.stage` written. -/
def State.atStage (s : State) (st : Stage) : State := s.setSeq { s.seq with stage := st }

/-- `SEQ.n` written. -/
def State.atN (s : State) (n : Nat) : State := s.setSeq { s.seq with n := BitVec.ofNat 32 n }

/-- `SEQ.i` written. -/
def State.atI (s : State) (i : Fin 10) : State := s.setSeq { s.seq with i := i }

/-- `SEQ.voice` written. -/
def State.atVoice (s : State) (v : Fin 10) : State := s.setSeq { s.seq with voice := v }

/-- `SEQ.state` written. -/
def State.inState (s : State) (x : SeqState) : State := s.setSeq { s.seq with state := x }

/-- `SEQ.n` after a loop over `count` indices from `start`: the last index, or as before when there is none
(`10_state.md` R25; log 15). -/
def State.afterLoop (s : State) (start count : Nat) : State :=
  if count = 0 then s else s.atN (start + count - 1)

/-! ### Configuration access -/

/-- The voice record of slot `v`. -/
def State.voiceOf (s : State) (v : Fin 10) : Voice := (vget s.cfg.slot v).voice

/-- `V`, the slot being rendered (`SEQ.voice`). -/
def State.voice (s : State) : Voice := s.voiceOf s.seq.voice

/-- `CFG.slot[v]` written. -/
def State.setSlot (s : State) (v : Fin 10) (x : Slot) : State := s.setCfg { s.cfg with slot := vset s.cfg.slot v x }

/-- The voice record of slot `v` changed, its valid bit kept. -/
def State.mapVoice (s : State) (v : Fin 10) (f : Voice → Voice) : State :=
  s.setSlot v ⟨(vget s.cfg.slot v).valid, f (s.voiceOf v)⟩

/-- The indices of slots and of partials, ascending. -/
def tenIndices : List (Fin 10) := [0, 1, 2, 3, 4, 5, 6, 7, 8, 9]

/-- Whether slot `v` holds a voice. -/
def State.isValid (s : State) (v : Fin 10) : Bool := (vget s.cfg.slot v).valid

/-! ### Exceptions (`60_exceptions.md`) -/

/-- The causes of `60_exceptions.md` R340. -/
inductive Cause where
  | trunc
  | filterDiscard
  | invalidArg
  | reserved
  | fail
  | io
deriving DecidableEq, Repr

/-- The code of a cause (`60_exceptions.md` R340). -/
def Cause.code : Cause → Byte
  | .trunc => 0x01
  | .filterDiscard => 0x02
  | .invalidArg => 0x10
  | .reserved => 0x11
  | .fail => 0x12
  | .io => 0x20

/-- The bit of a non-fatal cause in `WARN.mask` (`60_exceptions.md` R340); the other causes have none. -/
def Cause.maskBit : Cause → Byte
  | .trunc => 0x01
  | .filterDiscard => 0x02
  | .invalidArg => 0
  | .reserved => 0
  | .fail => 0
  | .io => 0

/-- `min(WARN.count + 1, 65535)` (`60_exceptions.md` R345). -/
def warnCountUp (c : BitVec 16) : BitVec 16 := if c = 0xFFFF then 0xFFFF else c + 1

/-- Non-fatal entry: the count, the mask and `STATUS.warn`; the raising operation goes on (`60_exceptions.md` R345). -/
def State.raiseWarn (s : State) (c : Cause) : State :=
  (s.setWarn (warnCountUp s.warnCount) (s.warnMask ||| c.maskBit)).setStatus { s.status with warn := true }

/-- The configuration after a fatal exception in `CMD.LOAD`: no slot and no loop region holds a value
(`60_exceptions.md` R360; log 6). -/
def Cfg.cleared (c : Cfg) : Cfg :=
  { c with slot := Vector.replicate 10 Slot.blank, loopBegin := 0, loopEnd := 0 }

/-- Fatal entry (`60_exceptions.md` R360). `SEQ.state` says which command is running: in LOADING the configuration
loses its value, in RENDERING `MB` does. -/
def State.fatalEntry (s : State) (c : Cause) : State :=
  { s with
    errCause := c.code
    status := { s.status with busy := false, done := false, error := true }
    outLen := 0
    cfg := if s.seq.state = .loading then s.cfg.cleared else s.cfg
    mb := if s.seq.state = .rendering then Buffer.blank else s.mb
    seq := { s.seq with state := .error } }

/-- Leaving the error state, and every other `CMD.RESET`: the state of `70_reset_and_hazards.md` R380. The pool is
not affected (`60_exceptions.md` R355, R361). -/
def State.blockReset (s : State) : State := { State.reset with pool := s.pool }

/-- Why an operation ends before its last step: a fatal exception, with the state its entry leaves, or a fault of the
model. -/
inductive Stop where
  | fatal (s : State)
  | fault (r : Fault)
deriving DecidableEq, Repr

/-- An operation that may raise a fatal exception or fault. -/
abbrev Op (α : Type) := StateT State (Except Stop) α

/-- `raise E` for a fatal `E`. -/
def raiseFatal {α : Type} (c : Cause) : Op α := fun s => .error (.fatal (s.fatalEntry c))

/-- The outcome of an operation performed as an instruction: a fatal exception is a next state. -/
def finish (r : Except Stop (Unit × State)) : Host.Outcome State Fault Refusal :=
  match r with
  | .ok (_, s) => .next s
  | .error (.fatal s) => .next s
  | .error (.fault f) => .fault f

/-! ### The image (`20_memory.md` R60 to R64) -/

/-- The byte at an address; `none` where nothing has been written. -/
def Image.read (m : Image) (a : Nat) : Option Byte := m.lookup a

/-- A byte written, the addresses kept strictly rising. -/
def Image.write (m : Image) (a : Nat) (b : Byte) : Image :=
  match m with
  | [] => [(a, b)]
  | (a', b') :: rest =>
    if a < a' then (a, b) :: (a', b') :: rest
    else if a = a' then (a, b) :: rest
    else (a', b') :: Image.write rest a b

/-- Consecutive bytes written from an address. -/
def Image.writeBytes (m : Image) (a : Nat) : List Byte → Image
  | [] => m
  | b :: rest => (m.write a b).writeBytes (a + 1) rest

/-- The canonical form: addresses strictly rising. No entry can equal what an unlisted address reads as, since that is
no value. -/
def Image.wf : Image → Bool
  | [] => true
  | [_] => true
  | (a, _) :: (a', b') :: rest => decide (a < a') && Image.wf ((a', b') :: rest)

/-- `MemRead(addr, n)`: `n` bytes as a big-endian unsigned integer (`00_scope.md` R14), on top of the bytes read
before. -/
def memRead (m : Image) (addr : Nat) : Nat → Nat → Except Fault Nat
  | 0, acc => .ok acc
  | n + 1, acc =>
    match m.read addr with
    | some b => memRead m (addr + 1) n (acc * 256 + b.toNat)
    | none => .error (.imgNoValue addr)

/-- The bytes that remain: `CFG.len - CFG.pos`. -/
def State.remaining (s : State) : Nat := s.cfg.len.toNat - s.cfg.pos.toNat

/-- The cursor moved past `n` bytes. -/
def State.advance (s : State) (n : Nat) : State := s.setCfg { s.cfg with pos := s.cfg.pos + BitVec.ofNat 32 n }

/-- The truncation mark alone. -/
def State.markTrunc (s : State) : State := s.setCfg { s.cfg with trunc := true }

/-- A truncated read: the mark, and the cursor at the end (`20_memory.md` R63). -/
def State.truncate (s : State) : State := s.setCfg { s.cfg with trunc := true, pos := s.cfg.len }

/-- `ImgU(n)` (`00_scope.md` R14, `20_memory.md` R63). -/
def imgU (n : Nat) : Op Nat := fun s =>
  if s.remaining < n then .ok (0, s.truncate)
  else
    match memRead s.img s.cfg.pos.toNat n 0 with
    | .ok v => .ok (v, s.advance n)
    | .error f => .error (.fault f)

/-- `ImgPeek(k)` (`20_memory.md` R64): `none` is "nothing". -/
def imgPeek (k : Nat) : Op (Option Byte) := fun s =>
  if s.cfg.pos.toNat + k < s.cfg.len.toNat then
    match s.img.read (s.cfg.pos.toNat + k) with
    | some b => .ok (some b, s)
    | none => .error (.fault (.imgNoValue (s.cfg.pos.toNat + k)))
  else .ok (none, s)

/-! ### Sample buffers (`20_memory.md` R66) -/

/-- The word at an index; `none` outside the buffer, where an index holds no value. -/
def Buffer.read (b : Buffer) (i : Nat) : Option Word := b.words[i]?

/-- A word written; an access outside the buffer is not performed (`20_memory.md` R66). -/
def Buffer.write (b : Buffer) (i : Nat) (x : Word) : Buffer := { b with words := b.words.set i x }

/-- What the sample at an index contributes to a sum: nothing where the access is not performed
(`20_memory.md` R66, `44_filter.md` R274; log 7). -/
def Buffer.term (b : Buffer) (i : Nat) : Word := (b.read i).getD 0

/-- `B[i] <- B[i] + x`. -/
def Buffer.add (b : Buffer) (i : Nat) (x : Word) : Buffer := b.write i (b.term i + x)

/-- `B[dst] <- B[src]`; not performed where `src` is outside the buffer. -/
def Buffer.copy (b : Buffer) (src dst : Nat) : Buffer :=
  match b.read src with
  | some x => b.write dst x
  | none => b

/-- Whether an index of a buffer holds a value: those at or beyond its length do not (`10_state.md` R50). -/
def Buffer.valued (b : Buffer) (i : Nat) : Bool := decide (i < b.words.length)

/-- Whether every index below `n` holds a value. -/
def Buffer.covers (b : Buffer) (n : Nat) : Bool := decide (n ≤ b.words.length)

/-- An operation performed by itself that reads `VB`: a fault where an index it reads holds no value
(`10_state.md` R50; log 7). -/
def needVb (valued : Bool) (o : Host.Outcome State Fault Refusal) : Host.Outcome State Fault Refusal :=
  if valued then o else .fault .vbNoValue

/-- The same for `MB`. -/
def needMb (valued : Bool) (o : Host.Outcome State Fault Refusal) : Host.Outcome State Fault Refusal :=
  if valued then o else .fault .mbNoValue

/-- `for i in 0..n-1: B[i] <- clip16(B[i])`. -/
def clipBelow : Nat → List Word → List Word
  | 0, l => l
  | _ + 1, [] => []
  | n + 1, x :: rest => clip16 x :: clipBelow n rest

/-- The clip of the words below `n`. -/
def Buffer.clip (b : Buffer) (n : Nat) : Buffer := { b with words := clipBelow n b.words }

/-! ### The buffer pool (`45_mixer.md` R330 to R334) -/

/-- The length of the array that serves a request: fresh beyond the capacity, else a pooled array of sufficient
length, else a new one of the fixed capacity (`45_mixer.md` R331; log 18). -/
def arrayFor (P : Params) (size : Nat) (pool : List Nat) : Nat :=
  if P.poolCapacity < size then size
  else ((pool.find? (fun a => decide (size ≤ a))).getD P.poolCapacity)

/-- The pool after a request is served. -/
def poolAfter (P : Params) (size : Nat) (pool : List Nat) : List Nat :=
  if P.poolCapacity < size then pool else pool.eraseP (fun a => decide (size ≤ a))

/-- The buffer a request returns: `size` zero words (`45_mixer.md` R331). -/
def acquired (P : Params) (size : Nat) (pool : List Nat) : Buffer :=
  ⟨List.replicate size 0, arrayFor P size pool⟩

/-- The pool after an array is released: only one of exactly the fixed capacity is kept, up to the pool's size
(`45_mixer.md` R332). -/
def poolReleased (P : Params) (b : Buffer) (pool : List Nat) : List Nat :=
  if b.array = P.poolCapacity ∧ pool.length < P.poolMax then b.array :: pool else pool

/-- `POOL.ACQUIRE(size)`: the buffer, or `E_FAIL` where the platform cannot supply it (`45_mixer.md` R331,
`60_exceptions.md` R347). That it can or cannot for a size, whatever else is in use, is a DESIGN CHOICE (log 17). -/
def poolAcquire (P : Params) (size : Nat) : Op Buffer := fun s =>
  if P.supplies size then .ok (acquired P size s.pool, s.setPool (poolAfter P size s.pool))
  else raiseFatal .fail s

/-- `VB <- POOL.ACQUIRE(size)`. -/
def acquireVb (P : Params) (size : Nat) : Op Unit := do
  let b ← poolAcquire P size
  modify fun s => s.setVb b

/-- `MB <- POOL.ACQUIRE(size)`. -/
def acquireMb (P : Params) (size : Nat) : Op Unit := do
  let b ← poolAcquire P size
  modify fun s => s.setMb b

/-- `POOL.RELEASE(VB)`: the voice buffer holds no value afterwards (`45_mixer.md` R332). -/
def State.releaseVb (P : Params) (s : State) : State :=
  (s.setPool (poolReleased P s.vb s.pool)).setVb Buffer.blank

end Sys2Proof.Machine
end

