-- ==== Sys2Proof/Machine/Flags.lean ====
section
/-! DEFINITION. Every flag computation the spec gives (`10_state.md` R26): the `STATUS` bits of a command, the
acceptance of a command, `MIX.loopValid`, the mute flip, and the legality of a configuration. No arithmetic operation
sets a flag. -/

namespace Sys2Proof.Machine

/-- `CMD.LOAD` and `CMD.RENDER` are accepted while not busy, in `IDLE` and `DONE` (`60_exceptions.md` R352 to R354). -/
def State.acceptsWork (s : State) : Bool :=
  !s.status.busy && (s.seq.state == .idle || s.seq.state == .done)

/-- `CMD.RESET` is accepted while not busy, in `IDLE`, `DONE` and `ERROR` (`60_exceptions.md` R352, R355). -/
def State.acceptsReset (s : State) : Bool :=
  !s.status.busy && (s.seq.state == .idle || s.seq.state == .done || s.seq.state == .error)

/-- The start of a command: `STATUS.busy <- 1; STATUS.done <- 0; SEQ.state <- x` (`60_exceptions.md` R353, R354). The
sample memories hold no value from here on (`70_reset_and_hazards.md` R383): no buffer is held. The working registers,
which hold none either, keep what the command before left there (DESIGN CHOICE, log 32). -/
def State.beginCommand (s : State) (x : SeqState) : State :=
  (((s.setStatus { s.status with busy := true, done := false }).inState x).setVb Buffer.blank).setMb Buffer.blank

/-- The end of `CMD.LOAD`: `SEQ.state <- IDLE; STATUS.busy <- 0` (`60_exceptions.md` R353). -/
def State.endLoad (s : State) : State :=
  (s.inState .idle).setStatus { s.status with busy := false }

/-- The end of `CMD.RENDER`: `STATUS.done <- 1; SEQ.state <- DONE; STATUS.busy <- 0` (`60_exceptions.md` R354). -/
def State.endRender (s : State) : State :=
  (s.inState .done).setStatus { s.status with busy := false, done := true }

/-- Loop validity: `0 <= begin < end <= MIX.S` (`45_mixer.md` R301, R302). -/
def loopValid (first last : BitVec 16) (single : Nat) : Bool :=
  decide (first.toNat < last.toNat ∧ last.toNat ≤ single)

/-- The gate's counter and mute flag after the increment: at the threshold the counter clears and the mute state
flips (`43_voice_stages.md` R240, R242). -/
def gateFlip (ctr : Word) (muted : Bool) (thr : Word) : GateRegs :=
  let up := ctr + Config.gateInc
  if thr.toInt ≤ up.toInt then ⟨0, !muted, thr⟩ else ⟨up, muted, thr⟩

/-- An envelope is legal when no segments implies `start = end` (`40_config_load.md` R154). -/
def Envelope.legal (e : Envelope) : Bool := !e.segs.isEmpty || e.start == e.stop

/-- A pair is legal when it is absent or both its envelopes are. -/
def EnvPair.legal (p : EnvPair) : Bool := !p.present || (p.first.legal && p.second.legal)

/-- A filter record is legal when its pole counts are at most 4 and its cutoff envelope, if present, is. A directly
written cutoff envelope with `start` other than 0 is legal, as `40_config_load.md` R154 does not list it, and gives that
`start` as the first `FLT.tval` (DESIGN CHOICE, log 34). -/
def Filter.legal (f : Filter) : Bool :=
  decide (f.ff.count.toNat ≤ Config.maxPoles) && decide (f.fb.count.toNat ≤ Config.maxPoles)
    && (!f.cutoffPresent || f.cutoff.legal)

/-- The invariants of a voice that `40_config_load.md` R154 lists. -/
def Voice.legal (V : Voice) : Bool :=
  V.frequency.legal && V.amplitude.legal && V.pitchLfo.legal && V.amplitudeLfo.legal && V.gate.legal
    && V.partials.all (fun p => p.amplitude != 0) && decide (V.partials.length ≤ Config.maxPartials)
    && (!V.filterPresent || V.filter.legal)

/-- The check of `CMD.RENDER`: every valid slot's voice is legal (`60_exceptions.md` R354). -/
def Cfg.legal (c : Cfg) : Bool :=
  tenIndices.all (fun v => !(vget c.slot v).valid || (vget c.slot v).voice.legal)

end Sys2Proof.Machine
end

