-- ==== Sys2Proof/Machine/Operands.lean ====
section
/-! DEFINITION. The operand forms: the envelope a role reads, the masked phase, the effective indices of
`20_memory.md` R74, the smart integers, and the tap counts of a filter. -/

namespace Sys2Proof.Machine

/-! ### Roles -/

/-- `cfg(e)`: the envelope record an evaluator instance reads (`10_state.md` R22). -/
def Voice.envelope (V : Voice) : Role → Envelope
  | .freq => V.frequency
  | .amp => V.amplitude
  | .vibr => V.pitchLfo.first
  | .vibd => V.pitchLfo.second
  | .trmr => V.amplitudeLfo.first
  | .trmd => V.amplitudeLfo.second
  | .gsil => V.gate.first
  | .gdur => V.gate.second
  | .cut => V.filter.cutoff

/-- The registers of an instance. -/
def EnvBank.get (b : EnvBank) : Role → EnvRegs
  | .freq => b.freq
  | .amp => b.amp
  | .vibr => b.vibr
  | .vibd => b.vibd
  | .trmr => b.trmr
  | .trmd => b.trmd
  | .gsil => b.gsil
  | .gdur => b.gdur
  | .cut => b.cut

/-- The bank with the registers of one instance written. -/
def EnvBank.set (b : EnvBank) (e : Role) (x : EnvRegs) : EnvBank :=
  match e with
  | .freq => { b with freq := x }
  | .amp => { b with amp := x }
  | .vibr => { b with vibr := x }
  | .vibd => { b with vibd := x }
  | .trmr => { b with trmr := x }
  | .trmd => { b with trmd := x }
  | .gsil => { b with gsil := x }
  | .gdur => { b with gdur := x }
  | .cut => { b with cut := x }

/-- `ENV[e]` written. -/
def State.setEnvRegs (s : State) (e : Role) (x : EnvRegs) : State := s.setEnv (s.env.set e x)

/-! ### Waveforms and phases -/

/-- The waveform a byte names: 5 to 255 is Off (`30_encoding.md` R105). -/
def waveformOf (w : Nat) : Waveform :=
  match w with
  | 1 => .square
  | 2 => .sine
  | 3 => .saw
  | 4 => .noise
  | _ => .off

/-- `p = phase & 0x7FFF` (`42_oscillator_lfo.md` R192). -/
def maskedPhase (phase : Word) : Nat := (phase &&& Config.phaseMask).toNat

/-! ### Effective indices (`20_memory.md` R74), as mathematical integers -/

/-- `n + VS.delay[i]`. -/
def partialIndex (n delay : Word) : Nat := n.toNat + delay.toNat

/-- `n + c0`: the sample of the direct term. -/
def directIndex (n c0 : Nat) : Nat := n + c0

/-- `n + c0 - FF_TAP_BASE - k`: the sample of feedforward tap `k` (`44_filter.md` R273). -/
def feedforwardIndex (base n c0 k : Nat) : Int := (n : Int) + c0 - base - k

/-- `n - 1 - k`: the sample of feedback tap `k`. -/
def feedbackIndex (n k : Nat) : Int := (n : Int) - 1 - k

/-! ### Filter taps -/

/-- `c_ch = 2 * F.poleCount[ch]` (`44_filter.md` R271). -/
def Channel.taps (c : Channel) : Nat := 2 * c.count.toNat

/-! ### Smart integers (`30_encoding.md` R101, R102) -/

/-- The big-endian number that the bytes of a form make. -/
def smartWord : Smart → Int
  | .one v => v.toNat
  | .two v => 32768 + v.toNat

/-- The value of a form, less `oneOffset` in its one-byte form and less `twoOffset` in its two-byte form. -/
def smartValue (oneOffset twoOffset : Int) : Smart → Int
  | .one v => smartWord (.one v) - oneOffset
  | .two v => smartWord (.two v) - twoOffset

/-- The value of an unsigned smart integer (`30_encoding.md` R101). -/
def unsignedSmart : Smart → Int := smartValue 0 Config.usmartOffset

/-- The value of a signed smart integer (`30_encoding.md` R102). -/
def signedSmart : Smart → Int := smartValue Config.ssmartBias Config.ssmartOffset

/-- A smart integer read at the cursor, less `oneOffset` in its one-byte form and less `twoOffset` in its two-byte
form. Without a byte left it sets `CFG.trunc` and is 0; cut after the first of two bytes it is a truncated read and
is 0 (`20_memory.md` R63; log 14). -/
def readSmart (oneOffset twoOffset : Int) : Op Int := do
  match ← imgPeek 0 with
  | none =>
    modify State.markTrunc
    pure 0
  | some b0 =>
    if b0.toNat ≤ Config.smartOneMax then
      let v ← imgU 1
      pure ((v : Int) - oneOffset)
    else
      let s ← get
      let v ← imgU 2
      if s.remaining < 2 then pure 0 else pure ((v : Int) - twoOffset)

/-- `USMART()`. -/
def readUSmart : Op Int := readSmart 0 Config.usmartOffset

/-- `SSMART()`. -/
def readSSmart : Op Int := readSmart Config.ssmartBias Config.ssmartOffset

end Sys2Proof.Machine
end

