-- ==== Sys2Proof/Machine/Load.lean ====
section
/-! DEFINITION. The configuration loader, CFG family (`40_config_load.md`). Each operation of R130 to R149 is one
`Op`; performed by itself it takes the latched slot `ldr.slot` and latches what it returns. -/

namespace Sys2Proof.Machine

/-! ### Envelope records -/

/-- Segment pairs, `n` of them (`30_encoding.md` R95). -/
def readSegments : Nat → Op (List Segment)
  | 0 => pure []
  | n + 1 => do
    let dur ← imgU 2
    let peak ← imgU 2
    let rest ← readSegments n
    pure (⟨BitVec.ofNat 16 dur, BitVec.ofNat 32 peak⟩ :: rest)

/-- The header of an envelope record, and how many segments follow (`30_encoding.md` R94). -/
def readEnvHeader : Op (Envelope × Nat) := do
  let w ← imgU 1
  let start ← imgU 4
  let stop ← imgU 4
  let n ← imgU 1
  pure (⟨waveformOf w, BitVec.ofNat 32 start, BitVec.ofNat 32 stop, []⟩, n)

/-- `CFG.ENVREC` (`40_config_load.md` R133). -/
def readEnvelope : Op Envelope := do
  let h ← readEnvHeader
  let segs ← readSegments h.2
  pure { h.1 with segs := segs }

/-- `CFG.CUTENV` (`40_config_load.md` R147). -/
def readCutoff : Op Envelope := do
  let n ← imgU 1
  let segs ← readSegments n
  pure ⟨.off, 0, 0, segs⟩

/-- `CFG.OPTPAIR` (`40_config_load.md` R134). -/
def readPair : Op EnvPair := do
  match ← imgPeek 0 with
  | none => pure EnvPair.blank
  | some b =>
    if b = 0 then
      let _ ← imgU 1
      pure EnvPair.blank
    else
      let first ← readEnvelope
      let second ← readEnvelope
      pure ⟨true, first, second⟩

/-! ### Oscillator list, echo, times -/

/-- At most `n` more entries of the oscillator list (`40_config_load.md` R135). -/
def readPartials : Nat → Op (List Partial)
  | 0 => pure []
  | n + 1 => do
    let a ← readUSmart
    if a = 0 then pure []
    else
      let p ← readSSmart
      let d ← readUSmart
      let rest ← readPartials n
      pure (⟨BitVec.ofInt 15 a, BitVec.ofInt 16 p, BitVec.ofInt 15 d⟩ :: rest)

/-- `CFG.PARTIALS v` (`40_config_load.md` R135). -/
def cfgPartials (v : Fin 10) : Op Unit := do
  let l ← readPartials Config.maxPartials
  modify fun s => s.mapVoice v fun V => { V with partials := l }

/-- `CFG.ECHOREC v` (`40_config_load.md` R136). -/
def cfgEchorec (v : Fin 10) : Op Unit := do
  let delay ← readUSmart
  let mix ← readUSmart
  modify fun s => s.mapVoice v fun V =>
    { V with echoDelay := BitVec.ofInt 15 delay, echoMix := BitVec.ofInt 15 mix }

/-- `CFG.TIMES v` (`40_config_load.md` R137). -/
def cfgTimes (v : Fin 10) : Op Unit := do
  let duration ← imgU 2
  let start ← imgU 2
  modify fun s => s.mapVoice v fun V =>
    { V with duration := BitVec.ofNat 16 duration, start := BitVec.ofNat 16 start }

/-! ### Filter -/

/-- A pole of a channel written at one endpoint. -/
def Channel.setPole (c : Channel) (last : Bool) (p : Fin 4) (x : Pole) : Channel :=
  if last then { c with last := vset c.last p x } else { c with first := vset c.first p x }

/-- A pole of a filter record written. -/
def Filter.setPole (F : Filter) (k : PoleAt) (x : Pole) : Filter :=
  if k.feedback then { F with fb := F.fb.setPole k.last k.p x } else { F with ff := F.ff.setPole k.last k.p x }

/-- The mask bit of a pole: bit `4 * ch + p` (`30_encoding.md` R107). -/
def maskBit (mask : Byte) (feedback : Bool) (p : Fin 4) : Bool :=
  mask.getLsbD ((if feedback then 4 else 0) + p.val)

/-- A pole pair read into the filter record: an unflagged pole's endpoint 1 is a copy of its endpoint 0
(`40_config_load.md` R145). -/
def storePole (mask : Byte) (k : PoleAt) (x : Pole) (F : Filter) : Filter :=
  let F := F.setPole k x
  if k.last || maskBit mask k.feedback k.p then F else F.setPole { k with last := true } x

/-- The pole indices below a count. -/
def polesBelow (count : BitVec 4) : List (Fin 4) := ([0, 1, 2, 3] : List (Fin 4)).take count.toNat

/-- The pole pairs that follow a filter header, in stream order: endpoint 0 of every pole, then endpoint 1 of the
flagged ones, channel 0 before channel 1 (`30_encoding.md` R100). -/
def polePlan (count0 count1 : BitVec 4) (mask : Byte) : List PoleAt :=
  let poles : List (Bool × Fin 4) :=
    (polesBelow count0).map (fun p => (false, p)) ++ (polesBelow count1).map (fun p => (true, p))
  poles.map (fun q => ⟨false, q.1, q.2⟩)
    ++ (poles.filter (fun q => maskBit mask q.1 q.2)).map (fun q => ⟨true, q.1, q.2⟩)

/-- A pole pair. -/
def readPole : Op Pole := do
  let phase ← imgU 2
  let magnitude ← imgU 2
  pure ⟨BitVec.ofNat 16 phase, BitVec.ofNat 16 magnitude⟩

/-- The pole pairs of a plan, read into a filter record. -/
def readPoles (mask : Byte) : List PoleAt → Filter → Op Filter
  | [], F => pure F
  | k :: rest, F => do
    let x ← readPole
    readPoles mask rest (storePole mask k x F)

/-- Whether the two pole counts are legal (`30_encoding.md` R106, R110 (d)). -/
def countsLegal (count0 count1 : BitVec 4) : Bool :=
  decide (count0.toNat ≤ Config.maxPoles) && decide (count1.toNat ≤ Config.maxPoles)

/-- A filter record with its header fields and no pole yet. The registers of poles that do not exist (`p` from the
pole count on), which R145 does not write, are 0 (DESIGN CHOICE, log 6). -/
def headerFilter (count0 count1 : BitVec 4) (gain0 gain1 : BitVec 16) (mask : Byte) : Filter :=
  { Filter.blank with
    ff := { Channel.blank with count := count0 }
    fb := { Channel.blank with count := count1 }
    gain0 := gain0
    gain1 := gain1
    cutoffPresent := mask != 0 || gain0 != gain1 }

/-- The header of a filter record and its modulation mask; a reserved pole count raises `E_RESERVED` on the first byte
(`40_config_load.md` R145, `60_exceptions.md` R351). -/
def readFilterHeader : Op (Filter × Byte) := do
  let b ← imgU 1
  let count0 := BitVec.ofNat 4 (b / 16)
  let count1 := BitVec.ofNat 4 b
  if countsLegal count0 count1 then
    let gain0 ← imgU 2
    let gain1 ← imgU 2
    let m ← imgU 1
    let mask := BitVec.ofNat 8 m
    pure (headerFilter count0 count1 (BitVec.ofNat 16 gain0) (BitVec.ofNat 16 gain1) mask, mask)
  else raiseFatal .reserved

/-- The pole pairs to come after a header. -/
def planOf (h : Filter × Byte) : List PoleAt := polePlan h.1.ff.count h.1.fb.count h.2

/-- `CFG.FILTERBODY v` (`40_config_load.md` R145). -/
def cfgFilterbody (v : Fin 10) : Op Unit := do
  let h ← readFilterHeader
  let F ← readPoles h.2 (planOf h) h.1
  let F ← if F.cutoffPresent then do
      let E ← readCutoff
      pure { F with cutoff := E }
    else pure F
  modify fun s => s.mapVoice v fun V => { V with filterPresent := true, filter := F }

/-- `CFG.LOOKSENV` (`40_config_load.md` R144). -/
def looksEnv : Op Bool := do
  match ← imgPeek 0 with
  | none => pure false
  | some b =>
    let s ← get
    if 1 ≤ b.toNat ∧ b.toNat ≤ 4 ∧ Config.heurMinBytes ≤ s.remaining then
      match memRead s.img (s.cfg.pos.toNat + 1) 4 0 with
      | .error f => throw (.fault f)
      | .ok w =>
        if Config.heurStartMax < (BitVec.ofNat 32 w).toInt.natAbs then pure false
        else
          match ← imgPeek 9 with
          | none => pure true
          | some n => pure (decide (n.toNat ≤ Config.heurSegMax))
    else pure false

/-- The filter of a slot absent, its fields holding no value (`40_config_load.md` R138, R146; log 6). -/
def State.dropFilter (s : State) (v : Fin 10) : State :=
  s.mapVoice v fun V => { V with filterPresent := false, filter := Filter.blank }

/-- `CFG.FILTER v` (`40_config_load.md` R138). -/
def cfgFilter (v : Fin 10) : Op Unit := do
  match ← imgPeek 0 with
  | none => modify fun s => s.dropFilter v
  | some b =>
    if b = 0 then
      let _ ← imgU 1
      modify fun s => s.dropFilter v
    else
      let env ← looksEnv
      if env then modify fun s => s.dropFilter v
      else
        cfgFilterbody v
        modify fun s => if s.cfg.trunc then (s.dropFilter v).raiseWarn .filterDiscard else s

/-! ### Voice, slot, loop region -/

/-- `CFG.VOICE v` (`40_config_load.md` R132). -/
def cfgVoice (v : Fin 10) : Op Unit := do
  let frequency ← readEnvelope
  modify fun s => s.mapVoice v fun V => { V with frequency := frequency }
  let amplitude ← readEnvelope
  modify fun s => s.mapVoice v fun V => { V with amplitude := amplitude }
  let pitchLfo ← readPair
  modify fun s => s.mapVoice v fun V => { V with pitchLfo := pitchLfo }
  let amplitudeLfo ← readPair
  modify fun s => s.mapVoice v fun V => { V with amplitudeLfo := amplitudeLfo }
  let gate ← readPair
  modify fun s => s.mapVoice v fun V => { V with gate := gate }
  cfgPartials v
  cfgEchorec v
  cfgTimes v
  cfgFilter v

/-- `CFG.SLOT v` (`40_config_load.md` R131). -/
def cfgSlot (v : Fin 10) : Op Unit := do
  match ← imgPeek 0 with
  | none => modify fun s => s.markTrunc.setSlot v Slot.blank
  | some b =>
    if b = 0 then
      let _ ← imgU 1
      modify fun s => s.setSlot v Slot.blank
    else
      modify fun s => s.setSlot v ⟨true, s.voiceOf v⟩
      cfgVoice v

/-- The loop region written. -/
def State.setLoop (s : State) (first last : BitVec 16) : State :=
  s.setCfg { s.cfg with loopBegin := first, loopEnd := last }

/-- `CFG.LOOPREC` (`40_config_load.md` R148). -/
def cfgLooprec : Op Unit := do
  let s ← get
  if 4 ≤ s.remaining then
    let first ← imgU 2
    let last ← imgU 2
    modify fun s => s.setLoop (BitVec.ofNat 16 first) (BitVec.ofNat 16 last)
  else modify fun s => s.setLoop 0 0

/-! ### Normalisation -/

/-- The synthetic segment of an envelope without segments whose start and end differ (`40_config_load.md` R149). -/
def Envelope.normalise (E : Envelope) (duration : BitVec 16) : Envelope :=
  if E.segs.isEmpty ∧ E.start ≠ E.stop then { E with segs := [⟨duration, E.stop⟩] } else E

/-- Both envelopes of a present pair normalised. -/
def EnvPair.normalise (p : EnvPair) (duration : BitVec 16) : EnvPair :=
  if p.present then ⟨true, p.first.normalise duration, p.second.normalise duration⟩ else p

/-- Every envelope of a voice normalised; the cutoff envelope is never affected (`40_config_load.md` R149). -/
def Voice.normalise (V : Voice) : Voice :=
  { V with
    frequency := V.frequency.normalise V.duration
    amplitude := V.amplitude.normalise V.duration
    pitchLfo := V.pitchLfo.normalise V.duration
    amplitudeLfo := V.amplitudeLfo.normalise V.duration
    gate := V.gate.normalise V.duration }

/-- `CFG.NORMALISE v` (`40_config_load.md` R149). -/
def State.cfgNormalise (s : State) (v : Fin 10) : State := s.mapVoice v Voice.normalise

/-- Every valid slot normalised. -/
def State.normaliseAll (s : State) : State :=
  tenIndices.foldl (fun t v => if t.isValid v then t.cfgNormalise v else t) s

/-! ### The whole image -/

/-- The start of a load (`40_config_load.md` R130). -/
def State.startLoad (s : State) : State :=
  ((s.setCfg { s.cfg with pos := 0, trunc := false }).setWarn 0 0).setStatus { s.status with warn := false }

/-- The slots of a list, loaded in order. -/
def loadSlots : List (Fin 10) → Op Unit
  | [] => pure ()
  | v :: rest => do
    cfgSlot v
    loadSlots rest

/-- `CFG.LOAD` (`40_config_load.md` R130). -/
def cfgLoad : Op Unit := do
  modify State.startLoad
  loadSlots tenIndices
  cfgLooprec
  modify fun s => if s.cfg.trunc then s.raiseWarn .trunc else s
  modify State.normaliseAll

/-! ### The operations by themselves -/

/-- An operation that returns a record, its result latched. -/
def latching {α : Type} (m : Op α) (f : α → Ports → Ports) : Op Unit := do
  let x ← m
  modify fun s => s.setIo (f x s.io)

/-- `CFG.LOAD`. -/
def execCfgLoad (s : State) : Host.Outcome State Fault Refusal := finish (cfgLoad s)

/-- `CFG.SLOT` for the latched slot. -/
def execCfgSlot (s : State) : Host.Outcome State Fault Refusal := finish (cfgSlot s.ldr.slot s)

/-- `CFG.VOICE` for the latched slot. -/
def execCfgVoice (s : State) : Host.Outcome State Fault Refusal := finish (cfgVoice s.ldr.slot s)

/-- `CFG.ENVREC`; the record is latched. -/
def execCfgEnvrec (s : State) : Host.Outcome State Fault Refusal :=
  finish (latching readEnvelope (fun E io => { io with env1 := E }) s)

/-- `CFG.OPTPAIR`; the pair is latched. -/
def execCfgOptpair (s : State) : Host.Outcome State Fault Refusal :=
  finish (latching readPair (fun p io => { io with present := p.present, env1 := p.first, env2 := p.second }) s)

/-- `CFG.PARTIALS` for the latched slot. -/
def execCfgPartials (s : State) : Host.Outcome State Fault Refusal := finish (cfgPartials s.ldr.slot s)

/-- `CFG.ECHOREC` for the latched slot. -/
def execCfgEchorec (s : State) : Host.Outcome State Fault Refusal := finish (cfgEchorec s.ldr.slot s)

/-- `CFG.TIMES` for the latched slot. -/
def execCfgTimes (s : State) : Host.Outcome State Fault Refusal := finish (cfgTimes s.ldr.slot s)

/-- `CFG.FILTER` for the latched slot. -/
def execCfgFilter (s : State) : Host.Outcome State Fault Refusal := finish (cfgFilter s.ldr.slot s)

/-- `CFG.LOOKSENV`; the answer is latched. -/
def execCfgLooksenv (s : State) : Host.Outcome State Fault Refusal :=
  finish (latching looksEnv (fun b io => { io with looksEnv := b }) s)

/-- `CFG.FILTERBODY` for the latched slot. -/
def execCfgFilterbody (s : State) : Host.Outcome State Fault Refusal := finish (cfgFilterbody s.ldr.slot s)

/-- `CFG.CUTENV`; the record is latched. -/
def execCfgCutenv (s : State) : Host.Outcome State Fault Refusal :=
  finish (latching readCutoff (fun E io => { io with env1 := E }) s)

/-- `CFG.LOOPREC`. -/
def execCfgLooprec (s : State) : Host.Outcome State Fault Refusal := finish (cfgLooprec s)

/-- `CFG.NORMALISE` for the latched slot. -/
def execCfgNormalise (s : State) : Host.Outcome State Fault Refusal := .next (s.cfgNormalise s.ldr.slot)

end Sys2Proof.Machine
end

