-- ==== Sys2Proof/Machine/Env.lean ====
section
/-! DEFINITION. The envelope unit, ENV family (`41_envelope.md`). -/

namespace Sys2Proof.Machine

/-- A value scaled to a level: `x << 15` in `LEVEL_W` bits (`41_envelope.md` R171). -/
def toLevel (x : Word) : Wide := x.signExtend 64 <<< Config.levelShift

/-- The registers after `ENV.RESET` (`41_envelope.md` R172). -/
def envResetRegs (E : Envelope) : EnvRegs := ⟨toLevel E.start, 0, 1, 0, 0⟩

/-- Segment `k` of an envelope that has segments, the index clamped to the last one (`41_envelope.md` R173;
log 23). -/
def Envelope.segAt (E : Envelope) (k : Nat) : Segment :=
  (E.segs[min k (E.segs.length - 1)]?).getD ⟨0, 0⟩

/-- `thr = (dur * period) >> 16`, the product exact (`41_envelope.md` R174). -/
def envThreshold (dur : BitVec 16) (period : Word) : Word :=
  BitVec.ofNat 32 ((dur.toNat * period.toNat) >>> 16)

/-- `delta` toward the target, or 0 when the threshold has already passed (`41_envelope.md` R173, R175). -/
def envDelta (target level : Wide) (thr ticks : Word) : Wide :=
  if ticks.toNat < thr.toNat then
    BitVec.ofInt 64 (tdiv (target.toInt - level.toInt) ((thr.toNat - ticks.toNat : Nat) : Int))
  else 0

/-- The advance to the next segment (`41_envelope.md` R173): the level is the current segment's peak, threshold and
delta are read at the index after the advance. -/
def envAdvance (E : Envelope) (r : EnvRegs) (period : Word) : EnvRegs :=
  let level := toLevel (E.segAt r.idx.toNat).peak
  let idx := min (r.idx.toNat + 1) (E.segs.length - 1)
  let seg := E.segAt idx
  let thr := envThreshold seg.dur period
  ⟨level, envDelta (toLevel seg.peak) level thr r.ticks, thr, BitVec.ofNat 8 idx, r.ticks⟩

/-- One evaluation: the value and the registers after it (`41_envelope.md` R173, R176, R177). `ENV[e].ticks` never wraps
in a legal render (`10_state.md` R51); `ENV.EVAL` performed by itself can count beyond 2^32 - 1, and the register then
wraps to 0 (DESIGN CHOICE, log 37). -/
def envEvalRegs (E : Envelope) (r : EnvRegs) (period : Word) : Word × EnvRegs :=
  if E.segs.isEmpty then (E.start, r)
  else
    let q := if r.thr.toNat ≤ r.ticks.toNat then envAdvance E r period else r
    let level := q.level + q.delta
    (((level - q.delta).sshiftRight Config.levelShift).setWidth 32,
      { q with level := level, ticks := q.ticks + 1 })

/-- `ENV.RESET(e)` in the voice being rendered. -/
def State.envReset (s : State) (e : Role) : State :=
  s.setEnvRegs e (envResetRegs (s.voice.envelope e))

/-- `ENV.EVAL(e, period)` in the voice being rendered: the value and the state after it. -/
def State.envEval (s : State) (e : Role) (period : Word) : Word × State :=
  let r := envEvalRegs (s.voice.envelope e) (s.env.get e) period
  (r.1, s.setEnvRegs e r.2)

/-- `ENV.RESET` (`41_envelope.md` R172); `e` is latched. -/
def execEnvReset (s : State) : Host.Outcome State Fault Refusal :=
  .next (s.envReset s.io.role)

/-- `ENV.EVAL` (`41_envelope.md` R173); `e` and `period` are latched, and so is the value. -/
def execEnvEval (s : State) : Host.Outcome State Fault Refusal :=
  let r := s.envEval s.io.role s.io.period
  .next (r.2.setIo { s.io with value := r.1 })

end Sys2Proof.Machine
end

