-- ==== Sys2Proof/Machine/Flt.lean ====
section
/-! DEFINITION. The filter unit, FLT family (`44_filter.md`). The coefficient conversion runs over rationals through
the numerics record `Num` (R261; log 10); everything after the 16.16 conversion is integer arithmetic. -/

namespace Sys2Proof.Machine

/-! ### Real arithmetic through `Num` -/

/-- A sum of real terms, from the first to the last; no addition where there is one term. -/
def realSum (N : Num) : List Rat → Rat
  | [] => 0
  | x :: rest => rest.foldl N.add x

/-- `lerp(x0, x1) = x0 + (x1 - x0) * t` (`44_filter.md` R262). The difference is the real addition of the exactly
negated rational, as `Num` has no subtraction (DESIGN CHOICE, log 10). -/
def lerp (N : Num) (t x0 x1 : Rat) : Rat := N.add x0 (N.mul (N.add x1 (-x0)) t)

/-- Whether the exact `lerp(x0, x1)` at `t = tval / 65536` is 0: the case in which the rules give a result whatever
`Num` is (`44_filter.md` R263, R270; `93_implementation_defined.md` U2). Without a cutoff envelope `t = 0` (R279). -/
def lerpIsZero (F : Filter) (tval : Word) (x0 x1 : BitVec 16) : Bool :=
  let t : Int := if F.cutoffPresent then tval.toInt else 0
  x0.toNat * 65536 + ((x1.toNat : Int) - x0.toNat) * t == 0

/-- The interpolation position `t` (`44_filter.md` R262, R279). -/
def cutoffPosition (N : Num) (F : Filter) (tval : Word) : Rat :=
  if F.cutoffPresent then N.div (tval.toInt : Rat) 65536 else 0

/-- `10^(-db / 20)`, where `db` is a value times its scale (`44_filter.md` R263, R264). The negation is exact
(DESIGN CHOICE, log 10). -/
def decibels (N : Num) (x scale : Rat) : Rat := N.pow10 (N.div (-(N.mul x scale)) 20)

/-- The inverse unity gain as a real (`44_filter.md` R263); 1 where `u = 0`, whatever the scale and `Num` are. -/
def inverseGain (P : Params) (F : Filter) (tval : Word) : Rat :=
  if lerpIsZero F tval F.gain0 F.gain1 then 1
  else decibels P.num (lerp P.num (cutoffPosition P.num F tval) (F.gain0.toNat : Rat) (F.gain1.toNat : Rat))
    P.unityDbScale

/-- The amplitude of a pole (`44_filter.md` R264); 0 where its magnitude is 0, whatever the scale and `Num` are
(R270). The difference `1 - x` adds the exactly negated `x` (DESIGN CHOICE, log 10). -/
def poleAmplitude (P : Params) (F : Filter) (tval : Word) (p0 p1 : Pole) : Rat :=
  if lerpIsZero F tval p0.magnitude p1.magnitude then 0
  else P.num.add 1 (-(decibels P.num
    (lerp P.num (cutoffPosition P.num F tval) (p0.magnitude.toNat : Rat) (p1.magnitude.toNat : Rat)) P.magDbScale))

/-- The angle of a pole (`44_filter.md` R265). -/
def poleAngle (P : Params) (F : Filter) (tval : Word) (p0 p1 : Pole) : Rat :=
  let ph := lerp P.num (cutoffPosition P.num F tval) (p0.phase.toNat : Rat) (p1.phase.toNat : Rat)
  P.num.div
    (P.num.mul (P.num.mul 2 P.num.pi)
      (P.num.mul Config.baseFreq (P.num.exp2 (P.num.mul ph P.phaseOctScale))))
    (Config.sampleRate : Rat)

/-- The second-order section `[a, b]` of an amplitude and an angle (`44_filter.md` R266). -/
def sectionOf (N : Num) (amp angle : Rat) : Rat × Rat :=
  (N.mul (N.mul (-2) amp) (N.cos angle), N.mul amp amp)

/-- The terms of `C'[j] = C[j] + a * C[j-1] + b * C[j-2]` that exist (`44_filter.md` R267): the implicit leading 1
makes a term of `a` or of `b` alone, and an entry that is 0 by the rule makes none. -/
def cascadeTerms (N : Num) (C : List Rat) (a b : Rat) : Nat → List Rat
  | 0 => C[0]?.toList ++ [a]
  | 1 => C[1]?.toList ++ (C[0]?.toList.map (N.mul a)) ++ [b]
  | j + 2 => C[j + 2]?.toList ++ (C[j + 1]?.toList.map (N.mul a)) ++ (C[j]?.toList.map (N.mul b))

/-- One more section in the cascade (`44_filter.md` R267); the first section is the running vector itself. -/
def cascade (N : Num) (C : List Rat) (ab : Rat × Rat) : List Rat :=
  (List.range (C.length + 2)).map fun j => realSum N (cascadeTerms N C ab.1 ab.2 j)

/-- The poles a channel has, as endpoint pairs. -/
def Channel.poles (c : Channel) : List (Pole × Pole) :=
  (c.first.toList.zip c.last.toList).take c.count.toNat

/-- The coefficient vector of a channel, each entry scaled (`44_filter.md` R266 to R268); all 0 where every amplitude
is 0, whatever `Num` is (R270, `93_implementation_defined.md` U2). -/
def channelVector (P : Params) (F : Filter) (tval : Word) (c : Channel) (scale : Rat → Rat) : List Rat :=
  let amps := c.poles.map fun p => poleAmplitude P F tval p.1 p.2
  if amps.all (· == 0) then List.replicate (2 * amps.length) 0
  else
    let sections := c.poles.map fun p => sectionOf P.num (poleAmplitude P F tval p.1 p.2) (poleAngle P F tval p.1 p.2)
    (sections.foldl (cascade P.num) []).map scale

/-- The conversion to 16.16, of the exact value (`44_filter.md` R261, R269). -/
def toFixed (x : Rat) : Word := wrap32 (truncRat (x * 65536))

/-- `FLT.COEF` (`44_filter.md` R270): the gain, and the taps of both channels; channel 0 is scaled by the gain (R268).
The tap registers from `2 * poleCount` on keep their values (DESIGN CHOICE, log 33). -/
def fltCoefRegs (P : Params) (F : Filter) (r : FltRegs) : FltRegs :=
  let gain := inverseGain P F r.tval
  { r with
    g := toFixed gain
    ff := overlay r.ff ((channelVector P F r.tval F.ff (P.num.mul · gain)).map toFixed)
    fb := overlay r.fb ((channelVector P F r.tval F.fb id).map toFixed) }

/-! ### Application -/

/-- The product of a coefficient and a sample, in the accumulator's width (`44_filter.md` R277). -/
def wideMul (c x : Word) : Wide := c.signExtend 64 * x.signExtend 64

/-- A tap's term: nothing outside the buffer's `N` samples (`44_filter.md` R274), nor for a tap register that does
not exist (log 23). -/
def tapTerm (b : Buffer) (count : Nat) (coef : Vector Word 8) (k : Nat) (j : Int) : Wide :=
  if h : k < 8 then
    if 0 ≤ j ∧ j < (count : Int) then wideMul coef[k] (b.term j.toNat) else 0
  else 0

/-- The sum of one output sample (`44_filter.md` R277) in the 64 bits of `FLT.acc` (`10_state.md` R29). R277 derives from
`|coef| < 2^23` (R269) that it cannot overflow; `Num` is unconstrained here (log 10), so taps of any size are reachable,
and beyond 64 bits the sum wraps modulo 2^64 (DESIGN CHOICE, log 36). -/
def fltSum (P : Params) (F : Filter) (r : FltRegs) (b : Buffer) (count n : Nat) : Wide :=
  let m := directIndex n F.ff.taps
  let direct : Wide := if m < count then wideMul r.g (b.term m) else 0
  let forward := (List.range F.ff.taps).foldl
    (fun acc k => acc + tapTerm b count r.ff k (feedforwardIndex P.ffTapBase n F.ff.taps k)) direct
  (List.range F.fb.taps).foldl
    (fun acc k => acc - tapTerm b count r.fb k (feedbackIndex n k)) forward

/-- `FLT.STEP(n)` (`44_filter.md` R277, R278): in place. -/
def State.fltStep (P : Params) (s : State) (n : Nat) : State :=
  let acc := fltSum P s.voice.filter s.flt s.vb s.vs.count.toNat n
  (s.setFlt { s.flt with acc := acc }).setVb (s.vb.write n ((acc.sshiftRight 16).setWidth 32))

/-- `FLT.COEF` in the voice being rendered. -/
def State.fltCoef (P : Params) (s : State) : State := s.setFlt (fltCoefRegs P s.voice.filter s.flt)

/-- The first index of the final block (`44_filter.md` R272). -/
def finalStart (count c0 : Nat) : Nat := count - c0

/-- The first index of the main blocks (`44_filter.md` R272). -/
def mainStart (count c0 c1 : Nat) : Nat := min c1 (finalStart count c0)

/-- Where the coefficients are recomputed (`44_filter.md` R272, R275). -/
def coefHere (count c0 c1 n : Nat) : Bool :=
  n == 0 || (decide (mainStart count c0 c1 < n) && decide (n < finalStart count c0)
    && (n - mainStart count c0 c1) % Config.fltChunk == 0)

/-- One sample of `FLT.APPLY`: the cutoff evaluator, the coefficients where they are recomputed, the output
(`44_filter.md` R272, R276). -/
def State.fltSample (P : Params) (n : Nat) (s : State) : State :=
  let F := s.voice.filter
  let s := s.atN n
  let e := if F.cutoffPresent then s.envEval .cut s.vs.count else (0, s)
  let s := e.2.setFlt { e.2.flt with tval := e.1 }
  let s := if coefHere s.vs.count.toNat F.ff.taps F.fb.taps n then s.fltCoef P else s
  s.fltStep P n

/-- `FLT.APPLY` (`44_filter.md` R272). -/
def State.fltApply (P : Params) (s : State) : State :=
  let s := s.atStage .filter
  let s := if s.voice.filter.cutoffPresent then s.envReset .cut else s
  forUp (State.fltSample P) 0 s.vs.count.toNat s

/-- The indices that `FLT.STEP(n)` reads where they are in range (`44_filter.md` R277). -/
def fltReads (P : Params) (F : Filter) (n : Nat) : List Int :=
  (directIndex n F.ff.taps : Int)
    :: (List.range (min F.ff.taps 8)).map (feedforwardIndex P.ffTapBase n F.ff.taps)
    ++ (List.range (min F.fb.taps 8)).map (feedbackIndex n)

/-- Whether every word that `FLT.STEP(n)` reads holds a value. -/
def State.fltValued (P : Params) (s : State) (n : Nat) : Bool :=
  (fltReads P s.voice.filter n).all fun j =>
    decide (j < 0) || decide ((s.vs.count.toNat : Int) ≤ j) || s.vb.valued j.toNat

/-- `FLT.COEF`. -/
def execFltCoef (s : State) : Host.Outcome State Fault Refusal := .next (s.fltCoef Config.params)

/-- `FLT.STEP` at `n = SEQ.n`. -/
def execFltStep (s : State) : Host.Outcome State Fault Refusal :=
  needVb (s.fltValued Config.params s.seq.n.toNat) (.next (s.fltStep Config.params s.seq.n.toNat))

/-- `FLT.APPLY`. -/
def execFltApply (s : State) : Host.Outcome State Fault Refusal :=
  needVb (s.vb.covers s.vs.count.toNat || (List.range s.vs.count.toNat).all (s.fltValued Config.params))
    (.next (s.fltApply Config.params))

end Sys2Proof.Machine
end

