-- ==== Sys2Proof/Machine/Gen.lean ====
section
/-! DEFINITION. The waveform generators, GEN family (`42_oscillator_lfo.md` R191 to R197). -/

namespace Sys2Proof.Machine

/-- `GEN.OFF` (`42_oscillator_lfo.md` R193). -/
def genOff (_amp _phase : Word) : Word := 0

/-- `GEN.SQUARE` (`42_oscillator_lfo.md` R194). -/
def genSquare (amp phase : Word) : Word :=
  if maskedPhase phase < Config.squareSplit then amp else -amp

/-- `GEN.SINE` (`42_oscillator_lfo.md` R195): the product wraps, the shift is arithmetic. -/
def genSine (P : Params) (amp phase : Word) : Word :=
  asr (wrap32 (P.sine (maskedPhase phase)) * amp) 14

/-- `GEN.SAW` (`42_oscillator_lfo.md` R196). -/
def genSaw (amp phase : Word) : Word :=
  asr (BitVec.ofNat 32 (maskedPhase phase) * amp) 14 - amp

/-- `GEN.NOISE` (`42_oscillator_lfo.md` R197). -/
def genNoise (P : Params) (amp phase : Word) : Word :=
  wrap32 (P.noise (maskedPhase phase / Config.noiseDiv)) * amp

/-- `OSC.GEN`: the generator a waveform selects (`42_oscillator_lfo.md` R191). -/
def oscGen (P : Params) (amp phase : Word) : Waveform → Word
  | .off => genOff amp phase
  | .square => genSquare amp phase
  | .sine => genSine P amp phase
  | .saw => genSaw amp phase
  | .noise => genNoise P amp phase

/-- A generator's result latched. -/
def State.latchSample (s : State) (x : Word) : State := s.setIo { s.io with sample := x }

/-- `GEN.OFF` on the latched operands. -/
def execGenOff (s : State) : Host.Outcome State Fault Refusal :=
  .next (s.latchSample (genOff s.io.amp s.io.phase))

/-- `GEN.SQUARE` on the latched operands. -/
def execGenSquare (s : State) : Host.Outcome State Fault Refusal :=
  .next (s.latchSample (genSquare s.io.amp s.io.phase))

/-- `GEN.SINE` on the latched operands. -/
def execGenSine (s : State) : Host.Outcome State Fault Refusal :=
  .next (s.latchSample (genSine Config.params s.io.amp s.io.phase))

/-- `GEN.SAW` on the latched operands. -/
def execGenSaw (s : State) : Host.Outcome State Fault Refusal :=
  .next (s.latchSample (genSaw s.io.amp s.io.phase))

/-- `GEN.NOISE` on the latched operands. -/
def execGenNoise (s : State) : Host.Outcome State Fault Refusal :=
  .next (s.latchSample (genNoise Config.params s.io.amp s.io.phase))

end Sys2Proof.Machine
end

