-- ==== Sys2Proof/Machine/Osc.lean ====
section
/-! DEFINITION. The low-frequency oscillators and the partials, LFO and OSC families (`42_oscillator_lfo.md`). -/

namespace Sys2Proof.Machine

/-- The phase advance of an LFO: `base + ((rate * step) >> 16)` (`42_oscillator_lfo.md` R199, R200). -/
def lfoAdvance (phase base rate step : Word) : Word := phase + base + asr (rate * step) 16

/-- `LFO.VIB(f)` (`42_oscillator_lfo.md` R199): the modulated frequency and the state after it. -/
def State.lfoVib (P : Params) (s : State) (f : Word) : Word × State :=
  let r := s.envEval .vibr s.vs.count
  let d := r.2.envEval .vibd s.vs.count
  (f + asr (oscGen P d.1 s.osc.vibPhase s.voice.pitchLfo.first.waveform) 1,
    d.2.setOsc { s.osc with vibPhase := lfoAdvance s.osc.vibPhase s.vs.vibBase r.1 s.vs.vibStep })

/-- The tremolo's product: `(a * (mod + 32768)) >> 15` (`42_oscillator_lfo.md` R200). -/
def tremolo (a mod : Word) : Word := asr (a * (mod + 32768)) 15

/-- `LFO.TREM(a)` (`42_oscillator_lfo.md` R200): the modulated amplitude and the state after it. -/
def State.lfoTrem (P : Params) (s : State) (a : Word) : Word × State :=
  let r := s.envEval .trmr s.vs.count
  let d := r.2.envEval .trmd s.vs.count
  (tremolo a (asr (oscGen P d.1 s.osc.tremPhase s.voice.amplitudeLfo.first.waveform) 1),
    d.2.setOsc { s.osc with tremPhase := lfoAdvance s.osc.tremPhase s.vs.tremBase r.1 s.vs.tremStep })

/-- `OSC.PARTIAL(i, f, a)` at `n = SEQ.n` (`42_oscillator_lfo.md` R202). -/
def State.oscPartial (P : Params) (s : State) (i : Fin 10) (f a : Word) : State :=
  let pos := partialIndex s.seq.n (vget s.vs.delay i)
  if pos < s.vs.count.toNat then
    let phase := vget s.osc.phase i
    let x := oscGen P (asr (a * vget s.vs.vol i) 15) phase s.voice.frequency.waveform
    (s.setVb (s.vb.add pos x)).setOsc
      { s.osc with
        phase := vset s.osc.phase i (phase + asr (f * vget s.vs.inc i) 16 + vget s.vs.base i) }
  else s

/-- Whether the word that a partial adds to, if its index is in range, holds a value. -/
def State.partialValued (s : State) (i : Fin 10) : Bool :=
  let pos := partialIndex s.seq.n (vget s.vs.delay i)
  decide (s.vs.count.toNat ≤ pos) || s.vb.valued pos

/-- The partials a voice has, by index. -/
def State.partialIndices (s : State) : List (Fin 10) := tenIndices.take s.voice.partials.length

/-- `OSC.SAMPLE` at `n = SEQ.n` (`42_oscillator_lfo.md` R204). -/
def State.oscSample (P : Params) (s : State) : State :=
  let f := s.envEval .freq s.vs.count
  let a := f.2.envEval .amp s.vs.count
  let f' := if s.voice.pitchLfo.present then a.2.lfoVib P f.1 else (f.1, a.2)
  let a' := if s.voice.amplitudeLfo.present then f'.2.lfoTrem P a.1 else (a.1, f'.2)
  s.partialIndices.foldl (fun t i => (t.atI i).oscPartial P i f'.1 a'.1) a'.2

/-- `LFO.VIB` on the latched frequency; the result is latched. Performed only when the voice has the LFO
(`42_oscillator_lfo.md` R199). -/
def execLfoVib (s : State) : Host.Outcome State Fault Refusal :=
  let r := if s.voice.pitchLfo.present then s.lfoVib Config.params s.io.freq else (s.io.freq, s)
  .next (r.2.setIo { s.io with freq := r.1 })

/-- `LFO.TREM` on the latched amplitude; the result is latched. Performed only when the voice has the LFO
(`42_oscillator_lfo.md` R200). -/
def execLfoTrem (s : State) : Host.Outcome State Fault Refusal :=
  let r := if s.voice.amplitudeLfo.present then s.lfoTrem Config.params s.io.ampl else (s.io.ampl, s)
  .next (r.2.setIo { s.io with ampl := r.1 })

/-- `OSC.PARTIAL` for the partial `SEQ.i` on the latched frequency and amplitude. -/
def execOscPartial (s : State) : Host.Outcome State Fault Refusal :=
  needVb (s.partialValued s.seq.i) (.next (s.oscPartial Config.params s.seq.i s.io.freq s.io.ampl))

/-- `OSC.SAMPLE`. -/
def execOscSample (s : State) : Host.Outcome State Fault Refusal :=
  needVb (s.partialIndices.all s.partialValued) (.next (s.oscSample Config.params))

end Sys2Proof.Machine
end

