-- ==== Sys2Proof/Machine/Voice.lean ====
section
/-! DEFINITION. The voice datapath, VOICE, GATE and ECHO families (`43_voice_stages.md`), with the setup formulas of
`42_oscillator_lfo.md` R201 and R203. -/

namespace Sys2Proof.Machine

/-! ### Setup formulas -/

/-- `trunc(ms * VS.sps)` (`42_oscillator_lfo.md` R203, `43_voice_stages.md` R246). -/
def delaySamples (ms : BitVec 15) (sps : Ratio) : Word := BitVec.ofNat 32 (ms.toNat * sps.num / sps.den)

/-- `wrap32(trunc(x * PHASE_SCALE * ratio / VS.sps))`, the rational exact (`42_oscillator_lfo.md` R201, R203). -/
def phaseRate (P : Params) (x : Int) (ratio sps : Ratio) : Word :=
  wrap32 (truncDiv (x * P.phaseScale.num * ratio.num * sps.den) (P.phaseScale.den * ratio.den * sps.num))

/-- The ratio 1: an LFO has no pitch ratio. -/
def unitRatio : Ratio := ⟨1, 1⟩

/-- `VS.vol[i] = tdiv(P.amplitude << 14, 100)`. -/
def partialVolume (p : Partial) : Word := wrap32 (tdiv (p.amplitude.toNat * 2 ^ 14) 100)

/-- `VS.inc[i]`. -/
def partialInc (P : Params) (F : Envelope) (sps : Ratio) (p : Partial) : Word :=
  phaseRate P (F.stop.toInt - F.start.toInt) (P.pitchRatio p.pitchOffset.toInt) sps

/-- `VS.base[i]`. -/
def partialBase (P : Params) (F : Envelope) (sps : Ratio) (p : Partial) : Word :=
  phaseRate P F.start.toInt (if P.baseUsesPitchRatio then P.pitchRatio p.pitchOffset.toInt else unitRatio) sps

/-- `VS.vibStep`, `VS.tremStep` (`42_oscillator_lfo.md` R201). -/
def lfoStep (P : Params) (R : Envelope) (sps : Ratio) : Word :=
  phaseRate P (R.stop.toInt - R.start.toInt) unitRatio sps

/-- `VS.vibBase`, `VS.tremBase` (`42_oscillator_lfo.md` R201). -/
def lfoBase (P : Params) (R : Envelope) (sps : Ratio) : Word := phaseRate P R.start.toInt unitRatio sps

/-- `VS.N` and `VS.sps`, which stand before the acquisition of the buffer (`43_voice_stages.md` R232). -/
def setupLengths (V : Voice) (r : VoiceRegs) : VoiceRegs :=
  let count := ms2s V.duration.toNat
  { r with count := BitVec.ofNat 32 count, sps := ⟨count, V.duration.toNat⟩ }

/-- The derived registers of a voice that has its lengths (`43_voice_stages.md` R232): those of an absent LFO, and of
partials the voice does not have, are left alone and keep the value of an earlier voice (DESIGN CHOICE, log 33). -/
def setupRegs (P : Params) (V : Voice) (r : VoiceRegs) : VoiceRegs :=
  let sps := r.sps
  let vib := V.pitchLfo.present
  let trem := V.amplitudeLfo.present
  { r with
    delay := overlay r.delay (V.partials.map fun p => delaySamples p.delay sps)
    vol := overlay r.vol (V.partials.map partialVolume)
    inc := overlay r.inc (V.partials.map (partialInc P V.frequency sps))
    base := overlay r.base (V.partials.map (partialBase P V.frequency sps))
    vibStep := if vib then lfoStep P V.pitchLfo.first sps else r.vibStep
    vibBase := if vib then lfoBase P V.pitchLfo.first sps else r.vibBase
    tremStep := if trem then lfoStep P V.amplitudeLfo.first sps else r.tremStep
    tremBase := if trem then lfoBase P V.amplitudeLfo.first sps else r.tremBase
    echoDelay := delaySamples V.echoDelay sps }

/-- What `VOICE.SETUP` does once the voice has its lengths and its buffer: the evaluators, the derived registers and the
phases (`43_voice_stages.md` R232). The registers it does not write, those of the gate, the filter and the evaluators of
absent records among them, keep the value of an earlier voice (DESIGN CHOICE, log 33). -/
def State.setupRest (P : Params) (s : State) : State :=
  let V := s.voice
  let s := (s.envReset .freq).envReset .amp
  let s := if V.pitchLfo.present then (s.envReset .vibr).envReset .vibd else s
  let s := if V.amplitudeLfo.present then (s.envReset .trmr).envReset .trmd else s
  (s.setVs (setupRegs P V s.vs)).setOsc ⟨Vector.replicate 10 0, 0, 0⟩

/-- `VOICE.SETUP` (`43_voice_stages.md` R231, R232): a short voice ends it, and so does a buffer that the platform cannot
supply, with `E_FAIL` (`45_mixer.md` R331). -/
def voiceSetup (P : Params) : Op Unit := do
  modify fun s => s.atStage .setup
  let s ← get
  if s.voice.duration.toNat < P.minDuration then modify fun s => s.setVs { s.vs with count := 0 }
  else
    modify fun s => s.setVs (setupLengths s.voice s.vs)
    acquireVb P (ms2s s.voice.duration.toNat)
    modify (State.setupRest P)

/-- `VOICE.SYNTH` (`43_voice_stages.md` R234). -/
def State.voiceSynth (P : Params) (s : State) : State :=
  let s := s.atStage .synth
  forUp (fun n t => (t.atN n).oscSample P) 0 s.vs.count.toNat s

/-! ### Gate -/

/-- `GATE.INIT` (`43_voice_stages.md` R239). -/
def State.gateInit (P : Params) (s : State) : State :=
  let s := (s.envReset .gsil).envReset .gdur
  s.setGate { s.gate with ctr := 0, muted := P.gateInitMuted }

/-- The adaptive threshold `S.start + (((S.end - S.start) * v) >> GATE_SHIFT)` (`43_voice_stages.md` R241). -/
def gateThreshold (P : Params) (S : Envelope) (v : Word) : Word :=
  S.start + asr ((S.stop - S.start) * v) P.gateShift

/-- `GATE.STEP` at `n = SEQ.n` (`43_voice_stages.md` R242). -/
def State.gateStep (P : Params) (s : State) : State :=
  let sil := s.envEval .gsil s.vs.count
  let dur := sil.2.envEval .gdur s.vs.count
  let v := if s.gate.muted then sil.1 else dur.1
  let g := gateFlip s.gate.ctr s.gate.muted (gateThreshold P s.voice.gate.first v)
  let s := dur.2.setGate g
  if g.muted then s.setVb (s.vb.write s.seq.n.toNat 0) else s

/-- The gate stage of `VOICE.RENDER` (`43_voice_stages.md` R233). -/
def State.gateStage (P : Params) (s : State) : State :=
  let s := (s.atStage .gate).gateInit P
  forUp (fun n t => (t.atN n).gateStep P) 0 s.vs.count.toNat s

/-! ### Echo and clip -/

/-- What one echo adds: `tdiv(x * mix, 100)`, the product an `s32` (`43_voice_stages.md` R245). -/
def echoTerm (x : Word) (mix : BitVec 15) : Word := wrap32 (tdiv (x * mix.setWidth 32).toInt 100)

/-- The in-place recursion of the echo, ascending (`43_voice_stages.md` R245). -/
def Buffer.echo (b : Buffer) (d count : Nat) (mix : BitVec 15) : Buffer :=
  forUp (fun n b => b.add n (echoTerm (b.term (n - d)) mix)) d (count - d) b

/-- `ECHO.APPLY` (`43_voice_stages.md` R245). -/
def State.echoApply (s : State) : State :=
  let d := s.vs.echoDelay.toNat
  let count := s.vs.count.toNat
  ((s.atStage .echo).setVb (s.vb.echo d count s.voice.echoMix)).afterLoop d (count - d)

/-- `VOICE.CLIP` (`43_voice_stages.md` R248). -/
def State.voiceClip (s : State) : State :=
  let count := s.vs.count.toNat
  ((s.atStage .clip).setVb (s.vb.clip count)).afterLoop 0 count

/-! ### The stages in order -/

/-- The echo runs when both its fields are greater than 0 (`43_voice_stages.md` R246). -/
def Voice.echoOn (V : Voice) : Bool := V.echoDelay != 0 && V.echoMix != 0

/-- The stages after synthesis (`43_voice_stages.md` R233, R249). -/
def State.voiceStages (P : Params) (s : State) : State :=
  let V := s.voice
  let s := if V.gate.present then s.gateStage P else s
  let s := if V.echoOn then s.echoApply else s
  let s := if V.filterPresent then s.fltApply P else s
  s.voiceClip

/-- `VOICE.RENDER` for the slot `SEQ.voice` (`43_voice_stages.md` R233). -/
def voiceRender (P : Params) : Op Unit := do
  voiceSetup P
  modify fun s => if s.vs.count = 0 then s else (s.voiceSynth P).voiceStages P

/-- `VOICE.SETUP`. -/
def execVoiceSetup (s : State) : Host.Outcome State Fault Refusal := finish (voiceSetup Config.params s)

/-- `VOICE.SYNTH`. Partial `i` reads the words from `VS.delay[i]` to `VS.N - 1`. -/
def execVoiceSynth (s : State) : Host.Outcome State Fault Refusal :=
  needVb (s.vb.covers s.vs.count.toNat
      || s.partialIndices.all fun i => decide (s.vs.count.toNat ≤ (vget s.vs.delay i).toNat))
    (.next (s.voiceSynth Config.params))

/-- `GATE.INIT`. -/
def execGateInit (s : State) : Host.Outcome State Fault Refusal := .next (s.gateInit Config.params)

/-- `GATE.STEP`. -/
def execGateStep (s : State) : Host.Outcome State Fault Refusal := .next (s.gateStep Config.params)

/-- `ECHO.APPLY`. -/
def execEchoApply (s : State) : Host.Outcome State Fault Refusal :=
  needVb (s.vb.covers s.vs.count.toNat || decide (s.vs.count.toNat ≤ s.vs.echoDelay.toNat)) (.next s.echoApply)

/-- `VOICE.CLIP`. -/
def execVoiceClip (s : State) : Host.Outcome State Fault Refusal :=
  needVb (s.vb.covers s.vs.count.toNat) (.next s.voiceClip)

/-- `VOICE.RENDER`. -/
def execVoiceRender (s : State) : Host.Outcome State Fault Refusal := finish (voiceRender Config.params s)

end Sys2Proof.Machine
end

