-- ==== Sys2Proof/Machine/Mix.lean ====
section
/-! DEFINITION. The mixer unit, MIX family (`45_mixer.md`). -/

namespace Sys2Proof.Machine

/-! ### Lengths -/

/-- `max over valid slots of (V.start + V.duration)`, in milliseconds (`45_mixer.md` R301). With no valid slot, which
only `MIX.LEN` performed by itself can meet, the maximum is taken as 0 (DESIGN CHOICE, log 31). -/
def Cfg.totalMs (c : Cfg) : Nat :=
  tenIndices.foldl (fun m v =>
    let sl := vget c.slot v
    if sl.valid then max m (sl.voice.start.toNat + sl.voice.duration.toNat) else m) 0

/-- `max(CFG.loopCount, 1)` (`45_mixer.md` R301, R303). -/
def loopReps (loopCount : Word) : Nat := (max loopCount.toInt 1).toNat

/-- `MIX.S + (end - begin) * (MIX.reps - 1)`, exact (`45_mixer.md` R303). -/
def Cfg.exactTotal (c : Cfg) (single reps : Nat) : Nat := single + (c.loopEnd.toNat - c.loopBegin.toNat) * (reps - 1)

/-- The mixer registers that `MIX.LEN` computes (`45_mixer.md` R301 to R303). `MIX.total` keeps the low 32 bits
(log 16). -/
def mixLengths (c : Cfg) : MixRegs :=
  let single := ms2s c.totalMs
  let valid := loopValid c.loopBegin c.loopEnd single
  let reps := if valid then loopReps c.loopCount else 1
  { single := BitVec.ofNat 32 single
    total := BitVec.ofNat 32 (c.exactTotal single reps)
    loopValid := valid
    reps := BitVec.ofNat 32 reps }

/-- `MIX.LEN` (`45_mixer.md` R301). -/
def State.mixLen (s : State) : State := s.setMix (mixLengths s.cfg)

/-! ### Accumulate -/

/-- The voice buffer added into the mix buffer at an offset, inside the window `[0, MIX.S)` (`45_mixer.md` R304). -/
def accumulate (mb vb : Buffer) (off count single : Nat) : Buffer :=
  forUp (fun i b => if off + i < single then b.add (off + i) (vb.term i) else b) 0 count mb

/-- `MIX.ACC` for the slot `SEQ.voice` (`45_mixer.md` R304). -/
def State.mixAcc (s : State) : State :=
  let count := s.vs.count.toNat
  ((s.atStage .acc).setMb
    (accumulate s.mb s.vb (ms2s s.voice.start.toNat) count s.mix.single.toNat)).afterLoop 0 count

/-! ### Loop expansion -/

/-- The tail moved to the new end, descending (`45_mixer.md` R306). -/
def Buffer.moveTail (b : Buffer) (single last extra : Nat) : Buffer :=
  forDown (fun i b => b.copy i (i + extra)) last (single - last) b

/-- The loop region copied once more, `shift` words on (`45_mixer.md` R306). -/
def Buffer.repeatRegion (b : Buffer) (first last shift : Nat) : Buffer :=
  forUp (fun i b => b.copy i (i + shift)) first (last - first) b

/-- The expanded buffer: the tail first, then the repeats (`45_mixer.md` R306). A region with `end <= begin`, which only
`MIX.LOOP` performed alone on an old `MIX.loopValid` can meet, has length 0, so that nothing moves (DESIGN CHOICE,
log 23). -/
def Buffer.expand (b : Buffer) (single first last reps : Nat) : Buffer :=
  let len := last - first
  forUp (fun r b => b.repeatRegion first last (r * len)) 1 (reps - 1)
    (b.moveTail single last (len * (reps - 1)))

/-- `MIX.LOOP` (`45_mixer.md` R306): performed only when the loop is valid and played more than once. -/
def State.mixLoop (s : State) : State :=
  let first := s.cfg.loopBegin.toNat
  let last := s.cfg.loopEnd.toNat
  if s.mix.loopValid ∧ 1 < s.mix.reps.toNat then
    ((s.atStage .loop).setMb (s.mb.expand s.mix.single.toNat first last s.mix.reps.toNat)).afterLoop first
      (last - first)
  else s

/-! ### The render -/

/-- `MIX.CLIP` (`45_mixer.md` R307). -/
def State.mixClip (s : State) : State :=
  let count := s.mix.total.toNat
  ((s.atStage .finalClip).setMb (s.mb.clip count)).afterLoop 0 count

/-- What follows the render of one voice: `MIX.ACC(v); POOL.RELEASE(VB)`. A short voice acquired no buffer, adds nothing
and releases nothing (`45_mixer.md` R308). -/
def State.mixIn (P : Params) (s : State) : State :=
  let s := s.mixAcc
  if s.vs.count = 0 then s else s.releaseVb P

/-- The voices of a render in turn: `VOICE.RENDER(v); MIX.ACC(v); POOL.RELEASE(VB)` (`45_mixer.md` R308). The first whose
buffer the platform cannot supply ends it (R331). -/
def mixVoices (P : Params) : List (Fin 10) → Op Unit
  | [] => pure ()
  | v :: rest => do
    modify fun s => s.atVoice v
    voiceRender P
    modify (State.mixIn P)
    mixVoices P rest

/-- Whether the output memory holds `total` words (`93_implementation_defined.md` U4): no more than `OUT_CAPACITY`, and
no more than the 32 bits of `MIX.total` and `OUT.len` can say (`10_state.md` R40, R54; log 16). -/
def outFits (P : Params) (total : Nat) : Bool :=
  decide (total < 2 ^ 32) &&
    match P.outCapacity with
    | none => true
    | some c => decide (total ≤ c)

/-- Whether the render whose lengths `MIX.LEN` has computed fits. -/
def State.outFits (P : Params) (s : State) : Bool :=
  Machine.outFits P (s.cfg.exactTotal s.mix.single.toNat s.mix.reps.toNat)

/-- The end of a render: the loop, the clip, the output length (`45_mixer.md` R308). -/
def State.mixEnd (s : State) : State :=
  let s := s.mixLoop.mixClip
  s.setOutLen s.mix.total

/-- A render that has its lengths: the buffer, the voices, the loop, the clip (`45_mixer.md` R308). -/
def mixBody (P : Params) : Op Unit := do
  let s ← get
  acquireMb P s.mix.total.toNat
  mixVoices P (tenIndices.filter s.isValid)
  modify State.mixEnd

/-- `MIX.RENDER` (`45_mixer.md` R308). An output longer than the output memory raises `E_FAIL` at the acquisition,
before any word is written (`93_implementation_defined.md` U4; log 17); so does a buffer that the platform cannot supply
(R331). -/
def mixRender (P : Params) : Op Unit := fun s =>
  if tenIndices.any s.isValid then
    let s := s.mixLen
    if s.outFits P then mixBody P s
    else raiseFatal .fail s
  else .ok ((), s.setOutLen 0)

/-- `MIX.LEN`. -/
def execMixLen (s : State) : Host.Outcome State Fault Refusal := .next s.mixLen

/-- How many words of the voice buffer `MIX.ACC` adds: those that fall into the window `[0, MIX.S)`. -/
def State.accCount (s : State) : Nat := min s.vs.count.toNat (s.mix.single.toNat - ms2s s.voice.start.toNat)

/-- `MIX.ACC`. -/
def execMixAcc (s : State) : Host.Outcome State Fault Refusal :=
  needVb (s.vb.covers s.accCount)
    (needMb (decide (s.accCount = 0) || s.mb.covers (ms2s s.voice.start.toNat + s.accCount)) (.next s.mixAcc))

/-- Whether the words that `MIX.LOOP` reads, the tail and the region, hold a value. -/
def State.loopValued (s : State) : Bool :=
  let first := s.cfg.loopBegin.toNat
  let last := s.cfg.loopEnd.toNat
  let single := s.mix.single.toNat
  (decide (single ≤ last) || s.mb.covers single) && (decide (last ≤ first) || s.mb.covers last)

/-- `MIX.LOOP`. -/
def execMixLoop (s : State) : Host.Outcome State Fault Refusal :=
  needMb (!s.mix.loopValid || decide (s.mix.reps.toNat ≤ 1) || s.loopValued) (.next s.mixLoop)

/-- `MIX.CLIP`. -/
def execMixClip (s : State) : Host.Outcome State Fault Refusal :=
  needMb (s.mb.covers s.mix.total.toNat) (.next s.mixClip)

/-- `MIX.RENDER`. -/
def execMixRender (s : State) : Host.Outcome State Fault Refusal := finish (mixRender Config.params s)

end Sys2Proof.Machine
end

