-- ==== Sys2Proof/Machine/Cmd.lean ====
section
/-! DEFINITION. The commands, CMD family (`60_exceptions.md` R353 to R355). A command that is not accepted in the
current state changes nothing and raises nothing (R352). -/

namespace Sys2Proof.Machine

/-- `CMD.LOAD` (`60_exceptions.md` R353). -/
def cmdLoad : Op Unit := do
  let s ← get
  if s.acceptsWork then
    modify fun s => s.beginCommand .loading
    cfgLoad
    modify State.endLoad
  else pure ()

/-- `CMD.RENDER` (`60_exceptions.md` R354). -/
def cmdRender (P : Params) : Op Unit := do
  let s ← get
  if s.acceptsWork then
    modify fun s => s.beginCommand .rendering
    if s.cfg.legal then
      mixRender P
      modify State.endRender
    else raiseFatal .reserved
  else pure ()

/-- `CMD.LOAD`. -/
def execCmdLoad (s : State) : Host.Outcome State Fault Refusal := finish (cmdLoad s)

/-- `CMD.RENDER`. -/
def execCmdRender (s : State) : Host.Outcome State Fault Refusal := finish (cmdRender Config.params s)

/-- `CMD.RESET` (`60_exceptions.md` R355). -/
def execCmdReset (s : State) : Host.Outcome State Fault Refusal :=
  .next (if s.acceptsReset then s.blockReset else s)

end Sys2Proof.Machine
end

