-- ==== Sys2Proof/Machine/Pool.lean ====
section
/-! DEFINITION. The buffer pool, POOL family (`45_mixer.md` R330 to R334). -/

namespace Sys2Proof.Machine

/-- `POOL.ACQUIRE` of the latched size; the buffer is latched (`45_mixer.md` R331). -/
def poolAcquireLatched (P : Params) : Op Unit := do
  let b ← poolAcquire P (← get).io.size.toNat
  modify fun s => s.setIo { s.io with buf := b }

/-- `POOL.ACQUIRE`. -/
def execPoolAcquire (s : State) : Host.Outcome State Fault Refusal := finish (poolAcquireLatched Config.params s)

/-- `POOL.RELEASE` of the latched buffer, which holds no value afterwards (`45_mixer.md` R332). -/
def execPoolRelease (s : State) : Host.Outcome State Fault Refusal :=
  .next ((s.setPool (poolReleased Config.params s.io.buf s.pool)).setIo { s.io with buf := Buffer.blank })

end Sys2Proof.Machine
end

