-- ==== Sys2Proof/WellFormed.lean ====
section
/-! DEFINITION. Well-formed instructions: the field values that a row of the table, at its place of the image, can
hold. Each check is a rule of `30_encoding.md`. -/

namespace Sys2Proof

/-- A smart integer whose bits are all 0 below the length flag: `USMART` value 0 (`30_encoding.md` R97, R104). -/
def Smart.isZero : Smart → Bool
  | .one v => v == 0
  | .two v => v == 0

/-- The check of each constructor.
`WF.RESERVED_AS_OFF` is a byte 5..255 (R105). A voice slot and a present pair begin with a non-zero byte (R92, R96).
A partial's amplitude is not 0 and a list end's is (R97). A filter header's first byte is not `00` (R110 (e)). -/
def Instr.wellFormed : Instr → Bool
  | .wfReservedAsOff w => decide (5 ≤ w.toNat)
  | .imgSlotVoice v => v != 0
  | .imgPairPresent v => v != 0
  | .imgPartial amplitude _ _ => !amplitude.isZero
  | .imgPartialEnd amplitude => amplitude.isZero
  | .imgFilterHeader count0 count1 _ _ _ => count0 != 0 || count1 != 0
  | .cmdLoad | .cmdRender | .cmdReset | .cfgLoad | .cfgSlot | .cfgVoice | .cfgEnvrec | .cfgOptpair
  | .cfgPartials | .cfgEchorec | .cfgTimes | .cfgFilter | .cfgLooksenv | .cfgFilterbody | .cfgCutenv
  | .cfgLooprec | .cfgNormalise | .envReset | .envEval | .genOff | .genSquare | .genSine | .genSaw | .genNoise
  | .lfoVib | .lfoTrem | .oscPartial | .oscSample | .voiceSetup | .voiceSynth | .gateInit | .gateStep
  | .echoApply | .voiceClip | .voiceRender | .fltCoef | .fltStep | .fltApply | .mixLen | .mixAcc | .mixLoop
  | .mixClip | .mixRender | .poolAcquire | .poolRelease => true
  | .wfOff | .wfSquare | .wfSine | .wfSaw | .wfNoise | .imgSlotEmpty | .imgEnvHeader _ _ _ _ | .imgSegment _ _
  | .imgPairAbsent | .usmart1 _ | .usmart2 _ | .ssmart1 _ | .ssmart2 _ | .imgEcho _ _ | .imgTimes _ _
  | .imgFilterAbsent | .imgPole _ _ | .imgCutoffEnv _ | .imgLoop _ _ => true

end Sys2Proof
end

