-- ==== Sys2Proof/Decode.lean ====
section
/-! DEFINITION. The decoder, total on any bytes at any place of `Place`, rejecting by name; after it the encoder,
written from the same tables. A record of the image is big-endian (`20_memory.md` R60). The same byte can be several
rows of the table, one for each place it may stand at: the place decides (log 12). -/

namespace Sys2Proof

/-! ### Byte order -/

/-- Two bytes in stream order as one big-endian word. -/
def be16 (b0 b1 : Byte) : BitVec 16 := b0 ++ b1

/-- Four bytes in stream order as one big-endian word. -/
def be32 (b0 b1 b2 b3 : Byte) : Word := be16 b0 b1 ++ be16 b2 b3

/-- The bytes of a 16-bit field, in stream order. -/
def bytes16 (v : BitVec 16) : List Byte := [v.extractLsb' 8 8, v.extractLsb' 0 8]

/-- The bytes of a 32-bit field, in stream order. -/
def bytes32 (v : Word) : List Byte :=
  [v.extractLsb' 24 8, v.extractLsb' 16 8, v.extractLsb' 8 8, v.extractLsb' 0 8]

/-! ### The tables -/

/-- The operation codes of `30_encoding.md` R112. -/
def operationCodes : List (Byte × Instr) :=
  [(0x01, .cmdLoad), (0x02, .cmdRender), (0x03, .cmdReset), (0x10, .cfgLoad),
   (0x11, .cfgSlot), (0x12, .cfgVoice), (0x13, .cfgEnvrec), (0x14, .cfgOptpair),
   (0x15, .cfgPartials), (0x16, .cfgEchorec), (0x17, .cfgTimes), (0x18, .cfgFilter),
   (0x19, .cfgLooksenv), (0x1A, .cfgFilterbody), (0x1B, .cfgCutenv), (0x1C, .cfgLooprec),
   (0x1D, .cfgNormalise), (0x20, .envReset), (0x21, .envEval), (0x30, .genOff),
   (0x31, .genSquare), (0x32, .genSine), (0x33, .genSaw), (0x34, .genNoise),
   (0x38, .lfoVib), (0x39, .lfoTrem), (0x3A, .oscPartial), (0x3B, .oscSample),
   (0x40, .voiceSetup), (0x41, .voiceSynth), (0x42, .gateInit), (0x43, .gateStep),
   (0x44, .echoApply), (0x45, .voiceClip), (0x46, .voiceRender), (0x50, .fltCoef),
   (0x51, .fltStep), (0x52, .fltApply), (0x60, .mixLen), (0x61, .mixAcc),
   (0x62, .mixLoop), (0x63, .mixClip), (0x64, .mixRender), (0x70, .poolAcquire),
   (0x71, .poolRelease)]

/-- The operation a code names, if it is assigned. -/
def operationOf (code : Byte) : Option Instr := operationCodes.lookup code

/-- The waveform-id byte rows of `30_encoding.md` R105. -/
def waveformRow (w : Byte) : Instr :=
  if w = 0 then .wfOff
  else if w = 1 then .wfSquare
  else if w = 2 then .wfSine
  else if w = 3 then .wfSaw
  else if w = 4 then .wfNoise
  else .wfReservedAsOff w

/-! ### The decoder -/

/-- Why a word is refused. -/
inductive DecodeError where
  /-- The code names no operation (`30_encoding.md` R112, `93_implementation_defined.md` I14). -/
  | unassigned (code : Byte)
  /-- Too few bytes for a record at this place. -/
  | short (place : Place)
deriving DecidableEq, Repr

/-- A smart integer at the head of the bytes: its length is told by the top bit (`30_encoding.md` R111). -/
def decodeSmart : List Byte → Option (Smart × List Byte)
  | [] => none
  | b0 :: rest =>
    if b0.msb then
      match rest with
      | [] => none
      | b1 :: rest' => some (.two (b0.extractLsb' 0 7 ++ b1), rest')
    else some (.one (b0.extractLsb' 0 7), rest)

/-- An entry of the oscillator list: amplitude 0 ends the list and is the whole entry (`30_encoding.md` R97). -/
def decodeOscillator (bs : List Byte) : Option (Instr × List Byte) :=
  match decodeSmart bs with
  | none => none
  | some (a, bs1) =>
    if a.isZero then some (.imgPartialEnd a, bs1)
    else
      match decodeSmart bs1 with
      | none => none
      | some (p, bs2) =>
        match decodeSmart bs2 with
        | none => none
        | some (d, bs3) => some (.imgPartial a p d, bs3)

/-- The echo record (`30_encoding.md` R98). -/
def decodeEcho (bs : List Byte) : Option (Instr × List Byte) :=
  match decodeSmart bs with
  | none => none
  | some (d, bs1) =>
    match decodeSmart bs1 with
    | none => none
    | some (m, bs2) => some (.imgEcho d m, bs2)

/-- The row that the bytes are at a place, with the bytes left over. A voice slot, a present pair and a present
filter are told from their first byte, which a slot and a pair do not consume (`30_encoding.md` R92, R96, R111). -/
def decodeRow : Place → List Byte → Option (Instr × List Byte)
  | .operation, b :: rest => (operationOf b).map (fun i => (i, rest))
  | .waveform, w :: rest => some (waveformRow w, rest)
  | .slot, b :: rest => if b = 0 then some (.imgSlotEmpty, rest) else some (.imgSlotVoice b, b :: rest)
  | .envHeader, w :: s0 :: s1 :: s2 :: s3 :: e0 :: e1 :: e2 :: e3 :: n :: rest =>
    some (.imgEnvHeader w (be32 s0 s1 s2 s3) (be32 e0 e1 e2 e3) n, rest)
  | .segment, d0 :: d1 :: p0 :: p1 :: rest => some (.imgSegment (be16 d0 d1) (be16 p0 p1), rest)
  | .pair, b :: rest => if b = 0 then some (.imgPairAbsent, rest) else some (.imgPairPresent b, b :: rest)
  | .usmart, bs =>
    match decodeSmart bs with
    | some (.one v, rest) => some (.usmart1 v, rest)
    | some (.two v, rest) => some (.usmart2 v, rest)
    | none => none
  | .ssmart, bs =>
    match decodeSmart bs with
    | some (.one v, rest) => some (.ssmart1 v, rest)
    | some (.two v, rest) => some (.ssmart2 v, rest)
    | none => none
  | .oscillator, bs => decodeOscillator bs
  | .echo, bs => decodeEcho bs
  | .times, d0 :: d1 :: s0 :: s1 :: rest => some (.imgTimes (be16 d0 d1) (be16 s0 s1), rest)
  | .filter, b :: rest =>
    if b = 0 then some (.imgFilterAbsent, rest)
    else
      match rest with
      | g0 :: g1 :: h0 :: h1 :: m :: rest' =>
        some (.imgFilterHeader (b.extractLsb' 4 4) (b.extractLsb' 0 4) (be16 g0 g1) (be16 h0 h1) m, rest')
      | _ => none
  | .pole, f0 :: f1 :: g0 :: g1 :: rest => some (.imgPole (be16 f0 f1) (be16 g0 g1), rest)
  | .cutoff, n :: rest => some (.imgCutoffEnv n, rest)
  | .loop, b0 :: b1 :: e0 :: e1 :: rest => some (.imgLoop (be16 b0 b1) (be16 e0 e1), rest)
  | _, _ => none

/-- The decoder: the row, or the refusal by name. -/
def decode (place : Place) (bs : List Byte) : Except DecodeError (Instr × List Byte) :=
  match decodeRow place bs with
  | some r => .ok r
  | none =>
    match place, bs with
    | .operation, b :: _ => .error (.unassigned b)
    | p, _ => .error (.short p)

/-! ### The encoder -/

/-- The bytes of a smart integer. -/
def encodeSmart : Smart → List Byte
  | .one v => [(0 : BitVec 1) ++ v]
  | .two v => [(1 : BitVec 1) ++ v.extractLsb' 8 7, v.extractLsb' 0 8]

/-- The place of the program or of the image at which a row stands. -/
def placeOf : Instr → Place
  | .wfOff | .wfSquare | .wfSine | .wfSaw | .wfNoise | .wfReservedAsOff _ => .waveform
  | .imgSlotEmpty | .imgSlotVoice _ => .slot
  | .imgEnvHeader _ _ _ _ => .envHeader
  | .imgSegment _ _ => .segment
  | .imgPairAbsent | .imgPairPresent _ => .pair
  | .usmart1 _ | .usmart2 _ => .usmart
  | .ssmart1 _ | .ssmart2 _ => .ssmart
  | .imgPartial _ _ _ | .imgPartialEnd _ => .oscillator
  | .imgEcho _ _ => .echo
  | .imgTimes _ _ => .times
  | .imgFilterAbsent | .imgFilterHeader _ _ _ _ _ => .filter
  | .imgPole _ _ => .pole
  | .imgCutoffEnv _ => .cutoff
  | .imgLoop _ _ => .loop
  | .cmdLoad | .cmdRender | .cmdReset | .cfgLoad | .cfgSlot | .cfgVoice | .cfgEnvrec | .cfgOptpair
  | .cfgPartials | .cfgEchorec | .cfgTimes | .cfgFilter | .cfgLooksenv | .cfgFilterbody | .cfgCutenv
  | .cfgLooprec | .cfgNormalise | .envReset | .envEval | .genOff | .genSquare | .genSine | .genSaw | .genNoise
  | .lfoVib | .lfoTrem | .oscPartial | .oscSample | .voiceSetup | .voiceSynth | .gateInit | .gateStep
  | .echoApply | .voiceClip | .voiceRender | .fltCoef | .fltStep | .fltApply | .mixLen | .mixAcc | .mixLoop
  | .mixClip | .mixRender | .poolAcquire | .poolRelease => .operation

/-- The bytes of an instruction. The first byte of a voice slot and of a present pair is shown although the record
does not consume it. -/
def encode : Instr → List Byte
  | .wfOff => [0]
  | .wfSquare => [1]
  | .wfSine => [2]
  | .wfSaw => [3]
  | .wfNoise => [4]
  | .wfReservedAsOff w => [w]
  | .imgSlotEmpty => [0]
  | .imgSlotVoice v => [v]
  | .imgEnvHeader w start stop n => w :: (bytes32 start ++ bytes32 stop ++ [n])
  | .imgSegment dur peak => bytes16 dur ++ bytes16 peak
  | .imgPairAbsent => [0]
  | .imgPairPresent v => [v]
  | .usmart1 v => encodeSmart (.one v)
  | .usmart2 v => encodeSmart (.two v)
  | .ssmart1 v => encodeSmart (.one v)
  | .ssmart2 v => encodeSmart (.two v)
  | .imgPartial a p d => encodeSmart a ++ encodeSmart p ++ encodeSmart d
  | .imgPartialEnd a => encodeSmart a
  | .imgEcho d m => encodeSmart d ++ encodeSmart m
  | .imgTimes duration start => bytes16 duration ++ bytes16 start
  | .imgFilterAbsent => [0]
  | .imgFilterHeader c0 c1 g h m => (c0 ++ c1 : Byte) :: (bytes16 g ++ bytes16 h ++ [m])
  | .imgPole phase magnitude => bytes16 phase ++ bytes16 magnitude
  | .imgCutoffEnv n => [n]
  | .imgLoop first last => bytes16 first ++ bytes16 last
  | .cmdLoad => [0x01]
  | .cmdRender => [0x02]
  | .cmdReset => [0x03]
  | .cfgLoad => [0x10]
  | .cfgSlot => [0x11]
  | .cfgVoice => [0x12]
  | .cfgEnvrec => [0x13]
  | .cfgOptpair => [0x14]
  | .cfgPartials => [0x15]
  | .cfgEchorec => [0x16]
  | .cfgTimes => [0x17]
  | .cfgFilter => [0x18]
  | .cfgLooksenv => [0x19]
  | .cfgFilterbody => [0x1A]
  | .cfgCutenv => [0x1B]
  | .cfgLooprec => [0x1C]
  | .cfgNormalise => [0x1D]
  | .envReset => [0x20]
  | .envEval => [0x21]
  | .genOff => [0x30]
  | .genSquare => [0x31]
  | .genSine => [0x32]
  | .genSaw => [0x33]
  | .genNoise => [0x34]
  | .lfoVib => [0x38]
  | .lfoTrem => [0x39]
  | .oscPartial => [0x3A]
  | .oscSample => [0x3B]
  | .voiceSetup => [0x40]
  | .voiceSynth => [0x41]
  | .gateInit => [0x42]
  | .gateStep => [0x43]
  | .echoApply => [0x44]
  | .voiceClip => [0x45]
  | .voiceRender => [0x46]
  | .fltCoef => [0x50]
  | .fltStep => [0x51]
  | .fltApply => [0x52]
  | .mixLen => [0x60]
  | .mixAcc => [0x61]
  | .mixLoop => [0x62]
  | .mixClip => [0x63]
  | .mixRender => [0x64]
  | .poolAcquire => [0x70]
  | .poolRelease => [0x71]

/-- How many bytes of its encoding a row consumes: a voice slot and a present pair are only looked at
(`30_encoding.md` R92, R96). -/
def consumed : Instr → Nat
  | .imgSlotVoice _ => 0
  | .imgPairPresent _ => 0
  | i => (encode i).length

/-! ### The table's words -/

/-- The most bytes a row has: the envelope header. -/
def longestRow : Nat := 10

/-- The bytes of an instruction given as one number of `nbits` bits, big-endian, zeros after it (log 13). -/
def tableBytes (nbits w : Nat) : List Byte :=
  let n := (nbits + 7) / 8
  (List.range n).map (fun k => BitVec.ofNat 8 (w >>> (8 * (n - 1 - k)))) ++ List.replicate (longestRow - n) 0

/-- The place a bare word of `nbits` bits is read at, when nothing but the word is given. The table's rows share
words; this order gives every operation, and of the rest the rows that no other row hides (log 12). -/
def tablePlace (nbits w : Nat) : Place :=
  match (nbits + 7) / 8 with
  | 0 => .operation
  | 1 => if (operationOf (BitVec.ofNat 8 w)).isSome then .operation else .waveform
  | 2 => if (0x8000 : Nat) ≤ w then .usmart else .echo
  | 4 => .segment
  | 6 => .filter
  | 3 | 5 => .oscillator
  | _ => .envHeader

/-- The instruction the decoder reads from a table word. -/
def decodeTableWord (nbits w : Nat) : Option Instr :=
  match decode (tablePlace nbits w) (tableBytes nbits w) with
  | .ok (i, _) => some i
  | .error _ => none

end Sys2Proof
end

