-- ==== Sys2Proof/Machine/Rec.lean ====
section
/-! DEFINITION. The rows of the image (`30_encoding.md` R92 to R109): what the loader does with one record or field
that stands decoded at its cursor. It moves past the bytes the record consumes and fills what the record fills: the
latched slot's fields, or the latched envelope record and smart integer that `CFG.*` operations return (log 4, log 22).
After the rows, the same for a row that the end of the image cuts (`20_memory.md` R63). -/

namespace Sys2Proof.Machine

/-- The cursor moved past a row. -/
def State.passRow (s : State) (i : Instr) : State := s.advance (consumed i)

/-- The latched envelope record changed. -/
def State.mapEnv (s : State) (f : Envelope → Envelope) : State := s.setIo { s.io with env1 := f s.io.env1 }

/-- The waveform field of the latched envelope record (`30_encoding.md` R105). -/
def State.putWaveform (s : State) (w : Nat) : State := s.mapEnv fun E => { E with waveform := waveformOf w }

/-- A waveform row. -/
def State.takeWaveform (s : State) (i : Instr) (w : Nat) : State := (s.passRow i).putWaveform w

/-- A header filled into the latched envelope record, with `n` segments to come. -/
def State.putHeader (s : State) (E : Envelope) (n : Byte) : State :=
  (s.mapEnv fun _ => E).setLdr { s.ldr with left := n }

/-- One more segment of the latched envelope record. -/
def State.putSegment (s : State) (g : Segment) : State :=
  (s.mapEnv fun E => { E with segs := E.segs ++ [g] }).setLdr
    { s.ldr with left := if s.ldr.left = 0 then 0 else s.ldr.left - 1 }

/-- An optional pair latched. -/
def State.putPair (s : State) (p : EnvPair) : State :=
  s.setIo { s.io with present := p.present, env1 := p.first, env2 := p.second }

/-- A smart integer latched. -/
def State.putSmart (s : State) (x : Int) : State := s.setIo { s.io with smart := wrap32 x }

/-- Partials appended to the list of the latched slot. -/
def State.putPartials (s : State) (l : List Partial) : State :=
  s.mapVoice s.ldr.slot fun V => { V with partials := V.partials ++ l }

/-- Whether the list of the latched slot has room: after a tenth entry it has ended (`30_encoding.md` R97). -/
def State.partialsOpen (s : State) : Bool := decide ((s.voiceOf s.ldr.slot).partials.length < Config.maxPartials)

/-- A filter header filled into the latched slot, its poles to come. `V.filter.present` and `F.cutoff.present` have
their values from here on, where `CFG.FILTERBODY` writes the one at the end of the record and the other behind the poles
(`40_config_load.md` R145): what the rows do one by one is a DESIGN CHOICE (log 38). -/
def State.putFilterHeader (s : State) (h : Filter × Byte) : State :=
  (s.mapVoice s.ldr.slot fun V => { V with filterPresent := true, filter := h.1 }).setLdr
    { s.ldr with mask := h.2, plan := planOf h }

/-- The next pole of the plan. Without a plan no pole register is meant and nothing is stored (log 22). -/
def State.putPole (s : State) (x : Pole) : State :=
  match s.ldr.plan with
  | [] => s
  | k :: rest =>
    (s.mapVoice s.ldr.slot fun V => { V with filter := storePole s.ldr.mask k x V.filter }).setLdr
      { s.ldr with plan := rest }

/-- `WF.OFF`. -/
def execWfOff (s : State) : Host.Outcome State Fault Refusal := .next (s.takeWaveform .wfOff 0)

/-- `WF.SQUARE`. -/
def execWfSquare (s : State) : Host.Outcome State Fault Refusal := .next (s.takeWaveform .wfSquare 1)

/-- `WF.SINE`. -/
def execWfSine (s : State) : Host.Outcome State Fault Refusal := .next (s.takeWaveform .wfSine 2)

/-- `WF.SAW`. -/
def execWfSaw (s : State) : Host.Outcome State Fault Refusal := .next (s.takeWaveform .wfSaw 3)

/-- `WF.NOISE`. -/
def execWfNoise (s : State) : Host.Outcome State Fault Refusal := .next (s.takeWaveform .wfNoise 4)

/-- `WF.RESERVED_AS_OFF`: stored as Off, not an error. -/
def execWfReservedAsOff (w : Byte) (s : State) : Host.Outcome State Fault Refusal :=
  .next (s.takeWaveform (.wfReservedAsOff w) w.toNat)

/-- `IMG.SLOT_EMPTY` (`30_encoding.md` R92). -/
def execImgSlotEmpty (s : State) : Host.Outcome State Fault Refusal :=
  .next ((s.passRow .imgSlotEmpty).setSlot s.ldr.slot Slot.blank)

/-- `IMG.SLOT_VOICE`: the slot holds a voice; the byte is not consumed (`30_encoding.md` R92). -/
def execImgSlotVoice (v : Byte) (s : State) : Host.Outcome State Fault Refusal :=
  .next ((s.passRow (.imgSlotVoice v)).setSlot s.ldr.slot ⟨true, s.voiceOf s.ldr.slot⟩)

/-- `IMG.ENV_HEADER`: an envelope record without segments yet, `n` of them to come (`30_encoding.md` R94). -/
def execImgEnvHeader (w : Byte) (start stop : Word) (n : Byte) (s : State) : Host.Outcome State Fault Refusal :=
  .next ((s.passRow (.imgEnvHeader w start stop n)).putHeader ⟨waveformOf w.toNat, start, stop, []⟩ n)

/-- `IMG.SEGMENT`: one more segment (`30_encoding.md` R95). -/
def execImgSegment (dur peak : BitVec 16) (s : State) : Host.Outcome State Fault Refusal :=
  .next ((s.passRow (.imgSegment dur peak)).putSegment ⟨dur, peak.setWidth 32⟩)

/-- `IMG.PAIR_ABSENT` (`30_encoding.md` R96). -/
def execImgPairAbsent (s : State) : Host.Outcome State Fault Refusal :=
  .next ((s.passRow .imgPairAbsent).putPair EnvPair.blank)

/-- `IMG.PAIR_PRESENT`: the byte is not consumed (`30_encoding.md` R96). -/
def execImgPairPresent (v : Byte) (s : State) : Host.Outcome State Fault Refusal :=
  .next ((s.passRow (.imgPairPresent v)).setIo { s.io with present := true })

/-- A smart integer row. -/
def State.takeSmart (s : State) (i : Instr) (x : Int) : State := (s.passRow i).putSmart x

/-- `USMART.1` (`30_encoding.md` R101). -/
def execUsmart1 (v : BitVec 7) (s : State) : Host.Outcome State Fault Refusal :=
  .next (s.takeSmart (.usmart1 v) (unsignedSmart (.one v)))

/-- `USMART.2` (`30_encoding.md` R101). -/
def execUsmart2 (v : BitVec 15) (s : State) : Host.Outcome State Fault Refusal :=
  .next (s.takeSmart (.usmart2 v) (unsignedSmart (.two v)))

/-- `SSMART.1` (`30_encoding.md` R102). -/
def execSsmart1 (v : BitVec 7) (s : State) : Host.Outcome State Fault Refusal :=
  .next (s.takeSmart (.ssmart1 v) (signedSmart (.one v)))

/-- `SSMART.2` (`30_encoding.md` R102). -/
def execSsmart2 (v : BitVec 15) (s : State) : Host.Outcome State Fault Refusal :=
  .next (s.takeSmart (.ssmart2 v) (signedSmart (.two v)))

/-- The partial record that three smart integers make (`30_encoding.md` R97). -/
def partialOf (amplitude pitchOffset delay : Smart) : Partial :=
  ⟨BitVec.ofInt 15 (unsignedSmart amplitude), BitVec.ofInt 16 (signedSmart pitchOffset),
    BitVec.ofInt 15 (unsignedSmart delay)⟩

/-- `IMG.PARTIAL`: one more partial. After a tenth entry the list has ended, and nothing of it is read
(`30_encoding.md` R97; log 22). No row starts the list at 0, as `CFG.PARTIALS` does (`40_config_load.md` R135):
performed by itself the row extends the list that the slot holds (DESIGN CHOICE, log 22). -/
def execImgPartial (amplitude pitchOffset delay : Smart) (s : State) : Host.Outcome State Fault Refusal :=
  .next (if s.partialsOpen then
      (s.passRow (.imgPartial amplitude pitchOffset delay)).putPartials [partialOf amplitude pitchOffset delay]
    else s)

/-- `IMG.PARTIAL_END`: the terminator is consumed and is no partial (`30_encoding.md` R97). Performed by itself it is
consumed also where the slot's list already holds ten partials (DESIGN CHOICE, log 22). -/
def execImgPartialEnd (amplitude : Smart) (s : State) : Host.Outcome State Fault Refusal :=
  .next (s.passRow (.imgPartialEnd amplitude))

/-- `IMG.ECHO` (`30_encoding.md` R98). -/
def execImgEcho (delay mix : Smart) (s : State) : Host.Outcome State Fault Refusal :=
  .next ((s.passRow (.imgEcho delay mix)).mapVoice s.ldr.slot fun V =>
    { V with
      echoDelay := BitVec.ofInt 15 (unsignedSmart delay)
      echoMix := BitVec.ofInt 15 (unsignedSmart mix) })

/-- `IMG.TIMES` (`30_encoding.md` R99). -/
def execImgTimes (duration start : BitVec 16) (s : State) : Host.Outcome State Fault Refusal :=
  .next ((s.passRow (.imgTimes duration start)).mapVoice s.ldr.slot fun V =>
    { V with duration := duration, start := start })

/-- `IMG.FILTER_ABSENT` (`30_encoding.md` R110 (e)). -/
def execImgFilterAbsent (s : State) : Host.Outcome State Fault Refusal :=
  .next ((s.passRow .imgFilterAbsent).dropFilter s.ldr.slot)

/-- `IMG.FILTER_HEADER` (`30_encoding.md` R100, R106, R107): the pole counts, gains and mask, the poles to come. A
reserved pole count raises `E_RESERVED` on the first byte, before any further read (`60_exceptions.md` R351). The row
is a header whatever the heuristic of `40_config_load.md` R144 answers, and no row discards a filter: both are
`CFG.FILTER`'s (DESIGN CHOICE, log 22). -/
def execImgFilterHeader (count0 count1 : BitVec 4) (gain0 gain1 : BitVec 16) (mask : Byte) (s : State) :
    Host.Outcome State Fault Refusal :=
  .next (if countsLegal count0 count1 then
      (s.passRow (.imgFilterHeader count0 count1 gain0 gain1 mask)).putFilterHeader
        (headerFilter count0 count1 gain0 gain1 mask, mask)
    else (s.advance 1).fatalEntry .reserved)

/-- `IMG.POLE`: the next pole pair of the plan (`30_encoding.md` R100). -/
def execImgPole (phase magnitude : BitVec 16) (s : State) : Host.Outcome State Fault Refusal :=
  .next ((s.passRow (.imgPole phase magnitude)).putPole ⟨phase, magnitude⟩)

/-- `IMG.CUTOFF_ENV`: a cutoff record without segments yet, `n` of them to come (`30_encoding.md` R108). -/
def execImgCutoffEnv (n : Byte) (s : State) : Host.Outcome State Fault Refusal :=
  .next ((s.passRow (.imgCutoffEnv n)).putHeader Envelope.blank n)

/-- `IMG.LOOP` (`30_encoding.md` R109). -/
def execImgLoop (first last : BitVec 16) (s : State) : Host.Outcome State Fault Refusal :=
  .next ((s.passRow (.imgLoop first last)).setLoop first last)

/-! ### A row that the end of the image cuts -/

/-- What the loader does at a place of the image where the bytes that remain are no whole row: it reads the row's
fields one by one, those that the image does not hold as 0 with `CFG.trunc` set (`20_memory.md` R63), and an absent
record where a peek finds nothing (R64; `40_config_load.md` R131, R134, R138, R148). A code is never cut. -/
def cutRow : Place → Op Unit
  | .operation => pure ()
  | .waveform => do
    let w ← imgU 1
    modify fun s => s.putWaveform w
  | .slot => do cfgSlot (← get).ldr.slot
  | .envHeader => do
    let h ← readEnvHeader
    modify fun s => s.putHeader h.1 (BitVec.ofNat 8 h.2)
  | .segment => do
    let l ← readSegments 1
    modify fun s => l.foldl State.putSegment s
  | .pair => do
    let p ← readPair
    modify fun s => s.putPair p
  | .usmart => do
    let x ← readUSmart
    modify fun s => s.putSmart x
  | .ssmart => do
    let x ← readSSmart
    modify fun s => s.putSmart x
  | .oscillator => do
    let s ← get
    if s.partialsOpen then
      let l ← readPartials 1
      modify fun s => s.putPartials l
    else pure ()
  | .echo => do cfgEchorec (← get).ldr.slot
  | .times => do cfgTimes (← get).ldr.slot
  | .filter => do
    match ← imgPeek 0 with
    | none => modify fun s => s.dropFilter s.ldr.slot
    | some _ =>
      let h ← readFilterHeader
      modify fun s => s.putFilterHeader h
  | .pole => do
    let x ← readPole
    modify fun s => s.putPole x
  | .cutoff => do
    let n ← imgU 1
    modify fun s => s.putHeader Envelope.blank (BitVec.ofNat 8 n)
  | .loop => cfgLooprec

/-- A cut row as a step performs it. -/
def execCutRow (place : Place) (s : State) : Host.Outcome State Fault Refusal := finish (cutRow place s)

end Sys2Proof.Machine
end

