-- ==== Sys2Proof/Machine/Dispatch.lean ====
section
/-! DEFINITION. The dispatch: one arm per constructor of `Instr`, each one call of its meaning. -/

namespace Sys2Proof.Machine

/-- The meaning of an instruction. -/
def exec (i : Instr) (s : State) : Host.Outcome State Fault Refusal :=
  match i with
  | .cmdLoad => Sys2Proof.Machine.execCmdLoad s
  | .cmdRender => Sys2Proof.Machine.execCmdRender s
  | .cmdReset => Sys2Proof.Machine.execCmdReset s
  | .cfgLoad => Sys2Proof.Machine.execCfgLoad s
  | .cfgSlot => Sys2Proof.Machine.execCfgSlot s
  | .cfgVoice => Sys2Proof.Machine.execCfgVoice s
  | .cfgEnvrec => Sys2Proof.Machine.execCfgEnvrec s
  | .cfgOptpair => Sys2Proof.Machine.execCfgOptpair s
  | .cfgPartials => Sys2Proof.Machine.execCfgPartials s
  | .cfgEchorec => Sys2Proof.Machine.execCfgEchorec s
  | .cfgTimes => Sys2Proof.Machine.execCfgTimes s
  | .cfgFilter => Sys2Proof.Machine.execCfgFilter s
  | .cfgLooksenv => Sys2Proof.Machine.execCfgLooksenv s
  | .cfgFilterbody => Sys2Proof.Machine.execCfgFilterbody s
  | .cfgCutenv => Sys2Proof.Machine.execCfgCutenv s
  | .cfgLooprec => Sys2Proof.Machine.execCfgLooprec s
  | .cfgNormalise => Sys2Proof.Machine.execCfgNormalise s
  | .envReset => Sys2Proof.Machine.execEnvReset s
  | .envEval => Sys2Proof.Machine.execEnvEval s
  | .genOff => Sys2Proof.Machine.execGenOff s
  | .genSquare => Sys2Proof.Machine.execGenSquare s
  | .genSine => Sys2Proof.Machine.execGenSine s
  | .genSaw => Sys2Proof.Machine.execGenSaw s
  | .genNoise => Sys2Proof.Machine.execGenNoise s
  | .lfoVib => Sys2Proof.Machine.execLfoVib s
  | .lfoTrem => Sys2Proof.Machine.execLfoTrem s
  | .oscPartial => Sys2Proof.Machine.execOscPartial s
  | .oscSample => Sys2Proof.Machine.execOscSample s
  | .voiceSetup => Sys2Proof.Machine.execVoiceSetup s
  | .voiceSynth => Sys2Proof.Machine.execVoiceSynth s
  | .gateInit => Sys2Proof.Machine.execGateInit s
  | .gateStep => Sys2Proof.Machine.execGateStep s
  | .echoApply => Sys2Proof.Machine.execEchoApply s
  | .voiceClip => Sys2Proof.Machine.execVoiceClip s
  | .voiceRender => Sys2Proof.Machine.execVoiceRender s
  | .fltCoef => Sys2Proof.Machine.execFltCoef s
  | .fltStep => Sys2Proof.Machine.execFltStep s
  | .fltApply => Sys2Proof.Machine.execFltApply s
  | .mixLen => Sys2Proof.Machine.execMixLen s
  | .mixAcc => Sys2Proof.Machine.execMixAcc s
  | .mixLoop => Sys2Proof.Machine.execMixLoop s
  | .mixClip => Sys2Proof.Machine.execMixClip s
  | .mixRender => Sys2Proof.Machine.execMixRender s
  | .poolAcquire => Sys2Proof.Machine.execPoolAcquire s
  | .poolRelease => Sys2Proof.Machine.execPoolRelease s
  | .wfOff => Sys2Proof.Machine.execWfOff s
  | .wfSquare => Sys2Proof.Machine.execWfSquare s
  | .wfSine => Sys2Proof.Machine.execWfSine s
  | .wfSaw => Sys2Proof.Machine.execWfSaw s
  | .wfNoise => Sys2Proof.Machine.execWfNoise s
  | .wfReservedAsOff w => Sys2Proof.Machine.execWfReservedAsOff w s
  | .imgSlotEmpty => Sys2Proof.Machine.execImgSlotEmpty s
  | .imgSlotVoice v => Sys2Proof.Machine.execImgSlotVoice v s
  | .imgEnvHeader w start stop n => Sys2Proof.Machine.execImgEnvHeader w start stop n s
  | .imgSegment dur peak => Sys2Proof.Machine.execImgSegment dur peak s
  | .imgPairAbsent => Sys2Proof.Machine.execImgPairAbsent s
  | .imgPairPresent v => Sys2Proof.Machine.execImgPairPresent v s
  | .usmart1 v => Sys2Proof.Machine.execUsmart1 v s
  | .usmart2 v => Sys2Proof.Machine.execUsmart2 v s
  | .ssmart1 v => Sys2Proof.Machine.execSsmart1 v s
  | .ssmart2 v => Sys2Proof.Machine.execSsmart2 v s
  | .imgPartial amplitude pitchOffset delay => Sys2Proof.Machine.execImgPartial amplitude pitchOffset delay s
  | .imgPartialEnd amplitude => Sys2Proof.Machine.execImgPartialEnd amplitude s
  | .imgEcho delay mix => Sys2Proof.Machine.execImgEcho delay mix s
  | .imgTimes duration start => Sys2Proof.Machine.execImgTimes duration start s
  | .imgFilterAbsent => Sys2Proof.Machine.execImgFilterAbsent s
  | .imgFilterHeader count0 count1 gain0 gain1 mask => Sys2Proof.Machine.execImgFilterHeader count0 count1 gain0 gain1 mask s
  | .imgPole phase magnitude => Sys2Proof.Machine.execImgPole phase magnitude s
  | .imgCutoffEnv n => Sys2Proof.Machine.execImgCutoffEnv n s
  | .imgLoop first last => Sys2Proof.Machine.execImgLoop first last s

end Sys2Proof.Machine
end

