-- ==== Sys2Proof/Machine/Fetch.lean ====
section
/-! DEFINITION. Where a step takes its instruction from: a code from the command register, a row of the image from
`IMG` at the cursor (log 2). -/

namespace Sys2Proof.Machine

/-- The written bytes of the image from an address on, at most `n`: none of them beyond the first byte that holds no
value. -/
def imageBytes (m : Image) : Nat → Nat → List Byte
  | _, 0 => []
  | a, n + 1 =>
    match m.read a with
    | some b => b :: imageBytes m (a + 1) n
    | none => []

/-- The bytes at a place: the command register, or what remains of the image at the cursor, up to the longest row. -/
def fetchBytes (place : Place) (s : State) : List Byte :=
  if place = .operation then [s.cmd]
  else imageBytes s.img s.cfg.pos.toNat (min longestRow s.remaining)

/-- A word of the table put where the next step takes its instruction from. -/
def placeWord (s : State) (nbits w : Nat) : State :=
  let place := tablePlace nbits w
  let bytes := tableBytes nbits w
  if place = .operation then (s.setCmd (bytes.headD 0)).setPending (some .operation)
  else
    ((s.setImg (s.img.writeBytes s.cfg.pos.toNat bytes)).setCfg
      { s.cfg with len := s.cfg.pos + BitVec.ofNat 32 bytes.length }).setPending (some place)

end Sys2Proof.Machine
end

