-- ==== Sys2Proof/Machine/Step.lean ====
section
/-! DEFINITION. One step of the sequencer: it rests, or performs the operation or the image row it stands at. -/

namespace Sys2Proof.Machine

/-- One step. Without a pending place the sequencer rests and does nothing (`60_exceptions.md` R369, `70` R386). Else
it performs, whole, the instruction that stands at that place (`00_scope.md` R7, R8; log 1); where the bytes that
remain are no whole row, it performs the row with the reads of `20_memory.md` R63. -/
def step (s : State) : Host.Outcome State Fault Refusal :=
  match s.pending with
  | none => .next s
  | some place =>
    match decode place (fetchBytes place s) with
    | .ok (i, _) => exec i (s.setPending none)
    | .error (.short _) => execCutRow place (s.setPending none)
    | .error (.unassigned code) => .refused (.unassignedCode code)

/-- The state with an instruction, given as one number of `nbits` bits, where the next step takes its instruction
from: a code in the command register, or a record in `IMG` at the cursor with `CFG.len` past it (log 2). -/
def State.withFetchWord (s : State) (nbits w : Nat) : State := placeWord s nbits w

end Sys2Proof.Machine
end

