-- ==== Sys2Proof/Machine/HostPort.lean ====
section
/-! DEFINITION. The host's accesses (`60_exceptions.md` R352, `10_state.md` R39, `40_config_load.md` R154) and the PCM
conversions of `45_mixer.md` R318. The host is the second agent: it acts between steps, and no step runs these. -/

namespace Sys2Proof.Machine

/-! ### The command register -/

/-- The block as the host sees it busy: a command is running, or one has been accepted and its step has not come yet
(`60_exceptions.md` R352 to R354; log 24). -/
def State.hostBusy (s : State) : Bool := s.status.busy || s.pending.isSome

/-- Whether a write of a code to `CMD` is accepted (`30_encoding.md` R113, `60_exceptions.md` R352 to R355). -/
def State.acceptsCommand (s : State) (code : Byte) : Bool :=
  !s.hostBusy &&
    if code = 0x01 then s.acceptsWork
    else if code = 0x02 then s.acceptsWork
    else if code = 0x03 then s.acceptsReset
    else false

/-- A host write to `CMD`: an accepted code is what the next step performs, and until then the host sees the block
busy and every further write is refused (log 24); any other write changes nothing. -/
def State.hostCommand (s : State) (code : Byte) : State :=
  if s.acceptsCommand code then (s.setCmd code).setPending (some .operation) else s

/-! ### Configuration and image -/

/-- Whether the host may write `CFG.*` and `IMG` (`10_state.md` R39, `20_memory.md` R72, `60_exceptions.md` R352). -/
def State.hostMayWrite (s : State) : Bool :=
  !s.hostBusy && (s.seq.state == .idle || s.seq.state == .done || s.seq.state == .error)

/-- The host's writes: every `CFG.*` register, the cursor's own among them (`10_state.md` R39, R53). The two gate
envelopes are written together: with only one of them the voice has no gate (`43_voice_stages.md` R243). -/
inductive HostWrite where
  | imageByte (addr : Nat) (b : Byte)
  | imageLength (len : Word)
  | cursor (pos : Word)
  | truncated (b : Bool)
  | loopCount (x : Word)
  | loopRegion (first last : BitVec 16)
  | slot (v : Fin 10) (x : Slot)
  | gate (v : Fin 10) (silence duration : Option Envelope)
deriving DecidableEq, Repr

/-- The gate pair that two separately optional envelopes make (`43_voice_stages.md` R243). -/
def gateOf : Option Envelope → Option Envelope → EnvPair
  | some silence, some duration => ⟨true, silence, duration⟩
  | _, _ => EnvPair.blank

/-- A host write; refused, it changes nothing. A slot written with `valid = 0`, or a record written with `present = 0`,
keeps the fields it is written with (DESIGN CHOICE, log 35). -/
def State.hostWrite (s : State) (w : HostWrite) : State :=
  if s.hostMayWrite then
    match w with
    | .imageByte a b => s.setImg (s.img.write a b)
    | .imageLength len => s.setCfg { s.cfg with len := len }
    | .cursor pos => s.setCfg { s.cfg with pos := pos }
    | .truncated b => s.setCfg { s.cfg with trunc := b }
    | .loopCount x => s.setCfg { s.cfg with loopCount := x }
    | .loopRegion first last => s.setLoop first last
    | .slot v x => s.setSlot v x
    | .gate v silence duration => s.mapVoice v fun V => { V with gate := gateOf silence duration }
  else s

/-- An image placed whole: its bytes from address 0, and `CFG.len`. -/
def State.hostImage (s : State) (bytes : List Byte) : State :=
  if s.hostMayWrite then
    (s.setImg (Image.writeBytes [] 0 bytes)).setCfg { s.cfg with len := BitVec.ofNat 32 bytes.length }
  else s

/-! ### Reads -/

/-- A host read of `STATUS`: an accepted command has begun for the host (`60_exceptions.md` R352 to R354; log 24). -/
def State.hostStatus (s : State) : Status :=
  if s.pending.isSome then { s.status with busy := true, done := false } else s.status

/-- A host read of `OUT.len`: any value while `STATUS.done = 0` (`93_implementation_defined.md` U6). -/
def State.hostOutLen (s : State) : Word := if s.hostStatus.done then s.outLen else Config.invalidRead 0

/-- A host read of output sample `i`: any value while `STATUS.done = 0` or beyond the output. -/
def State.hostSample (s : State) (i : Nat) : Word :=
  if s.hostStatus.done ∧ i < s.outLen.toNat then s.mb.term i else Config.invalidRead (i + 1)

/-! ### PCM conversions (host side) -/

/-- Signed 8-bit PCM: `sample >> 8`. -/
def pcmSigned8 (x : Word) : Int := (asr x 8).toInt

/-- Unsigned 8-bit PCM, the default: `(sample >> 8) + 128`. -/
def pcmUnsigned8 (x : Word) : Int := (asr x 8).toInt + 128

/-- 16-bit big-endian PCM. -/
def pcm16Big (x : Word) : List Byte := bytes16 (x.setWidth 16)

/-- 16-bit little-endian PCM. -/
def pcm16Little (x : Word) : List Byte := (pcm16Big x).reverse

end Sys2Proof.Machine
end

