-- ==== Sys2Proof/Machine/Writer.lean ====
section
/-! DEFINITION. The patch writer, the inverse of loading (`40_config_load.md` R150 to R152, `30_encoding.md` R104). It
is software and no operation of the block (`00_scope.md` R5 (e)); it stands here so that the round-trip contract can be
stated. `E_INVALID_ARG` is its one exception (`60_exceptions.md` R344). -/

namespace Sys2Proof.Machine

/-- The shortest form of an unsigned smart integer. -/
def unsignedForm (v : Int) : Except Cause Smart :=
  if 0 ≤ v ∧ v ≤ 127 then .ok (.one (BitVec.ofInt 7 v))
  else if 128 ≤ v ∧ v ≤ 32767 then .ok (.two (BitVec.ofInt 15 v))
  else .error .invalidArg

/-- The shortest form of a signed smart integer. -/
def signedForm (v : Int) : Except Cause Smart :=
  if -64 ≤ v ∧ v ≤ 63 then .ok (.one (BitVec.ofInt 7 (v + 64)))
  else if -16384 ≤ v ∧ v ≤ 16383 then .ok (.two (BitVec.ofInt 15 (v + 16384)))
  else .error .invalidArg

/-- The byte of a waveform (`30_encoding.md` R105). -/
def waveformByte : Waveform → Byte
  | .off => 0
  | .square => 1
  | .sine => 2
  | .saw => 3
  | .noise => 4

/-- A segment pair; the field carries the low 16 bits of the peak (log 29). -/
def writeSegment (g : Segment) : List Byte := encode (.imgSegment g.dur (g.peak.setWidth 16))

/-- An envelope record. -/
def writeEnvelope (E : Envelope) : List Byte :=
  encode (.imgEnvHeader (waveformByte E.waveform) E.start E.stop (BitVec.ofNat 8 E.segs.length))
    ++ E.segs.flatMap writeSegment

/-- An optional pair. -/
def writePair (p : EnvPair) : List Byte :=
  if p.present then writeEnvelope p.first ++ writeEnvelope p.second else encode .imgPairAbsent

/-- A partial. -/
def writePartial (p : Partial) : Except Cause (List Byte) := do
  let a ← unsignedForm p.amplitude.toNat
  let o ← signedForm p.pitchOffset.toInt
  let d ← unsignedForm p.delay.toNat
  pure (encode (.imgPartial a o d))

/-- Partials one after the other. -/
def writePartialList : List Partial → Except Cause (List Byte)
  | [] => pure []
  | p :: rest => do
    let x ← writePartial p
    let y ← writePartialList rest
    pure (x ++ y)

/-- The oscillator list: the terminator follows a list shorter than ten (`40_config_load.md` R150). -/
def writePartials (l : List Partial) : Except Cause (List Byte) := do
  let x ← writePartialList l
  pure (if l.length < Config.maxPartials then x ++ encode (.imgPartialEnd (.one 0)) else x)

/-- The echo record. -/
def writeEcho (delay mix : BitVec 15) : Except Cause (List Byte) := do
  let d ← unsignedForm delay.toNat
  let m ← unsignedForm mix.toNat
  pure (encode (.imgEcho d m))

/-- The poles of a filter with their channel and index. -/
def polesOf (F : Filter) : List (Bool × Fin 4) :=
  (polesBelow F.ff.count).map (fun p => (false, p)) ++ (polesBelow F.fb.count).map (fun p => (true, p))

/-- A pole at an endpoint. -/
def poleAt (F : Filter) (last feedback : Bool) (p : Fin 4) : Pole :=
  let c := if feedback then F.fb else F.ff
  if last then vget c.last p else vget c.first p

/-- The recomputed modulation mask (`40_config_load.md` R151). -/
def recomputedMask (F : Filter) : Byte :=
  (polesOf F).foldl (fun m q =>
    if poleAt F false q.1 q.2 = poleAt F true q.1 q.2 then m
    else m ||| ((1 : Byte) <<< ((if q.1 then 4 else 0) + q.2.val))) 0

/-- A pole pair. -/
def writePole (x : Pole) : List Byte := encode (.imgPole x.phase x.magnitude)

/-- A filter record (`40_config_load.md` R151). Where the mask or the gains ask for a cutoff envelope and the record has
`cutoff.present = 0`, which only a direct configuration can, the segments stored in `F.cutoff` are written (DESIGN
CHOICE, log 29). -/
def writeFilter (F : Filter) : List Byte :=
  let mask := recomputedMask F
  encode (.imgFilterHeader F.ff.count F.fb.count F.gain0 F.gain1 mask)
    ++ (polePlan F.ff.count F.fb.count mask).flatMap (fun k => writePole (poleAt F k.last k.feedback k.p))
    ++ (if mask != 0 || F.gain0 != F.gain1 then
      encode (.imgCutoffEnv (BitVec.ofNat 8 F.cutoff.segs.length)) ++ F.cutoff.segs.flatMap writeSegment else [])

/-- A voice record (`30_encoding.md` R93). -/
def writeVoice (V : Voice) : Except Cause (List Byte) := do
  let partials ← writePartials V.partials
  let echo ← writeEcho V.echoDelay V.echoMix
  pure (writeEnvelope V.frequency ++ writeEnvelope V.amplitude ++ writePair V.pitchLfo ++ writePair V.amplitudeLfo
    ++ writePair V.gate ++ partials ++ echo ++ encode (.imgTimes V.duration V.start)
    ++ (if V.filterPresent then writeFilter V.filter else encode .imgFilterAbsent))

/-- Slots one after the other. -/
def writeSlots (c : Cfg) : List (Fin 10) → Except Cause (List Byte)
  | [] => pure []
  | v :: rest => do
    let x ← if (vget c.slot v).valid then writeVoice (vget c.slot v).voice else pure (encode .imgSlotEmpty)
    let y ← writeSlots c rest
    pure (x ++ y)

/-- `WR.PATCH` (`40_config_load.md` R150). -/
def writePatch (c : Cfg) : Except Cause (List Byte) := do
  let slots ← writeSlots c tenIndices
  pure (slots ++ encode (.imgLoop c.loopBegin c.loopEnd))

end Sys2Proof.Machine
end

