-- ==== Sys2Proof/Safety.lean ====
section
/-! DEFINITION. What the statements about this machine are said in: what an image holds at the cursor, sequences of
operations, the invariant that every step keeps, and the configurations that the writer and the reader agree on. -/

namespace Sys2Proof.Machine

/-! ### What the image holds -/

/-- The bytes stand in `IMG` at the cursor, all of them below `CFG.len`. -/
abbrev State.holds (s : State) (bs : List Byte) : Prop :=
  s.cfg.pos.toNat + bs.length ≤ s.cfg.len.toNat ∧
    ∀ k < bs.length, s.img.read (s.cfg.pos.toNat + k) = bs[k]?

/-- Every byte of the image from an address to `CFG.len` has been written. -/
abbrev State.written (s : State) (a : Nat) : Prop :=
  ∀ k < s.cfg.len.toNat, a ≤ k → (s.img.read k).isSome = true

/-- No byte of the image, read as packed pole counts, names a reserved count (`30_encoding.md` R106, R110 (d)). -/
abbrev State.nibblesLegal (s : State) : Prop :=
  ∀ c ∈ s.img, c.2.toNat / 16 ≤ 4 ∧ c.2.toNat % 16 ≤ 4

/-- The bytes of segment pairs (`30_encoding.md` R95). -/
def segmentBytes (segs : List (BitVec 16 × BitVec 16)) : List Byte :=
  segs.flatMap fun g => encode (.imgSegment g.1 g.2)

/-- The segments those bytes stand for. -/
def segmentsOf (segs : List (BitVec 16 × BitVec 16)) : List Segment :=
  segs.map fun g => ⟨g.1, g.2.setWidth 32⟩

/-- The bytes of an envelope record (`30_encoding.md` R94). -/
def envelopeBytes (w : Byte) (start stop : Word) (segs : List (BitVec 16 × BitVec 16)) : List Byte :=
  encode (.imgEnvHeader w start stop (BitVec.ofNat 8 segs.length)) ++ segmentBytes segs

/-- The record those bytes stand for. -/
def envelopeOf (w : Byte) (start stop : Word) (segs : List (BitVec 16 × BitVec 16)) : Envelope :=
  ⟨waveformOf w.toNat, start, stop, segmentsOf segs⟩

/-- What is read of `n` more segments where the image ends, after the duration of the first of them if it is there
(`20_memory.md` R63). -/
def cutSegments (n : Nat) (dur : Option (BitVec 16)) : List Segment :=
  (List.range n).map fun k => ⟨if k = 0 then dur.getD 0 else 0, 0⟩

/-- The bytes stand in `IMG` at the cursor, and the image ends with them. -/
abbrev State.ends (s : State) (bs : List Byte) : Prop :=
  s.cfg.pos.toNat + bs.length = s.cfg.len.toNat ∧ ∀ k < bs.length, s.img.read (s.cfg.pos.toNat + k) = bs[k]?

/-- What is left of a smart integer that the end of the image cuts: nothing, or the first of two bytes. -/
abbrev cutSmart (bs : List Byte) : Prop := bs.length ≤ 1 ∧ ∀ b ∈ bs, 128 ≤ b.toNat

/-- The state from which a row of `n` bytes ends at the end of the image, with the truncation mark and the place
taken. -/
def State.cutBefore (s : State) (n : Nat) : State :=
  (s.setPending none).setCfg { s.cfg with trunc := true, pos := s.cfg.len - BitVec.ofNat 32 n }

/-- The answer of the filter heuristic on what stands at the cursor (`40_config_load.md` R144): `b` is the first byte,
`w` the big-endian number of the next four, `n` the byte at offset 9. -/
def looksLikeEnvelope (b : Byte) (w : Word) (n : Byte) : Bool :=
  decide (1 ≤ b.toNat) && decide (b.toNat ≤ 4) && decide (w.toInt.natAbs ≤ 10000000) && decide (n.toNat ≤ 15)

/-! ### Sequences of operations -/

/-- One operation after another: a fault or a refusal ends the sequence. -/
def andThen (o : Host.Outcome State Fault Refusal) (f : State → Host.Outcome State Fault Refusal) :
    Host.Outcome State Fault Refusal :=
  match o with
  | .next s => f s
  | .fault r => .fault r
  | .refused r => .refused r

/-- An operation performed `count` times. -/
def execTimes (i : Instr) : Nat → State → Host.Outcome State Fault Refusal
  | 0, s => .next s
  | count + 1, s => andThen (exec i s) (execTimes i count)

/-- An operation performed at `SEQ.n = n, n + 1, ...`, `count` times. -/
def execAt (i : Instr) : Nat → Nat → State → Host.Outcome State Fault Refusal
  | _, 0, s => .next s
  | n, count + 1, s => andThen (exec i (s.atN n)) (execAt i (n + 1) count)

/-- Operations performed one after the other. -/
def execAll : List Instr → State → Host.Outcome State Fault Refusal
  | [], s => .next s
  | i :: rest, s => andThen (exec i s) (execAll rest)

/-- The loop of `44_filter.md` R272 from sample `n` on, over the instructions `FLT.COEF` and `FLT.STEP`: the cutoff
evaluator, the coefficients at sample 0 and at the chunk boundaries of the main blocks, the output. -/
def filterSamples : Nat → Nat → State → Host.Outcome State Fault Refusal
  | _, 0, s => .next s
  | n, count + 1, s =>
    let F := s.voice.filter
    let last := s.vs.count.toNat - 2 * F.ff.count.toNat
    let main := min (2 * F.fb.count.toNat) last
    let e := if F.cutoffPresent then envEvalRegs F.cutoff s.env.cut s.vs.count else (0, s.env.cut)
    let s := ((s.atN n).setEnvRegs .cut e.2).setFlt { s.flt with tval := e.1 }
    let o := if n = 0 ∨ (main < n ∧ n < last ∧ (n - main) % 128 = 0) then exec .fltCoef s else .next s
    andThen (andThen o (exec .fltStep)) (filterSamples (n + 1) count)

/-- Whether the platform supplies the buffer that a voice needs; a short voice needs none (`43_voice_stages.md` R231,
R232, `45_mixer.md` R331; log 17). -/
def Voice.supplied (P : Params) (V : Voice) : Bool :=
  decide (V.duration.toNat < P.minDuration) || P.supplies (V.duration.toNat * 22050 / 1000)

/-- The rational that a pair stands for. -/
def ratOf (r : Ratio) : Rat := (r.num : Rat) / (r.den : Rat)

/-- `wrap32(trunc(x))` of an exact rational (`00_scope.md` R11, R15). -/
def wrapTrunc (x : Rat) : Word := wrap32 (truncRat x)

/-- The word is in the 16-bit range (`00_scope.md` R12). -/
abbrev inRange16 (x : Word) : Prop := -32768 ≤ x.toInt ∧ x.toInt ≤ 32767

/-! ### The invariant of every step -/

/-- What a stored voice always satisfies, complete or not: at most ten partials, none of amplitude 0
(`10_state.md` R31, R34), and, where a filter is present, legal pole counts (R36). -/
structure Voice.WellKept (V : Voice) : Prop where
  partials : V.partials.length ≤ 10
  amplitudes : ∀ p ∈ V.partials, p.amplitude ≠ 0
  poles : V.filterPresent = true → V.filter.ff.count.toNat ≤ 4 ∧ V.filter.fb.count.toNat ≤ 4

/-- The invariant: the image is in its canonical form; the `STATUS` bits say what `SEQ.state` says and the block is
never busy between steps (`10_state.md` R26, `60_exceptions.md` R353 to R355, R360); `ERR.cause` is set exactly in
`ERROR`; `STATUS.warn` says that warnings are counted and only the two mask bits are used (R345); every slot is well
kept; and outside IDLE, where `MB` holds no value, it holds at least `OUT.len` words (`10_state.md` R48,
`70_reset_and_hazards.md` R383). -/
structure State.Inv (s : State) : Prop where
  image : s.img.wf = true
  resting : s.seq.state = .idle ∨ s.seq.state = .done ∨ s.seq.state = .error
  busy : s.status.busy = false
  finished : s.status.done = true ↔ s.seq.state = .done
  failed : s.status.error = true ↔ s.seq.state = .error
  cause : s.errCause ≠ 0 ↔ s.seq.state = .error
  warned : s.status.warn = true ↔ s.warnCount ≠ 0
  mask : s.warnMask.toNat < 4
  slots : ∀ v : Fin 10, (s.voiceOf v).WellKept
  output : s.seq.state ≠ .idle → s.outLen.toNat ≤ s.mb.words.length

/-! ### Configurations that are written and read back -/

/-- An envelope an image can carry: at most 255 segments, each peak a u16. -/
def Envelope.carried (E : Envelope) : Bool :=
  decide (E.segs.length ≤ 255) && E.segs.all (fun g => decide (g.peak.toNat < 65536))

/-- A pair an image can carry: absent with nothing in it, or present with a first envelope whose waveform is not Off
(`30_encoding.md` R96). -/
def EnvPair.carried (p : EnvPair) : Bool :=
  if p.present then p.first.carried && p.second.carried && (p.first.waveform != .off) else p == EnvPair.blank

/-- A channel an image can carry: no pole beyond its count. -/
def Channel.carried (c : Channel) : Bool :=
  decide (c.count.toNat ≤ 4) &&
    ([0, 1, 2, 3] : List (Fin 4)).all (fun p =>
      decide (p.val < c.count.toNat) || (vget c.first p == Pole.blank && vget c.last p == Pole.blank))

/-- A filter an image can carry and the reader takes for a filter: `poleCount[0]` is not 0, so that the heuristic never
tests it (`40_config_load.md` R144), and the cutoff envelope is present exactly when the writer writes it (R151). -/
def Filter.carried (F : Filter) : Bool :=
  F.ff.carried && F.fb.carried && (F.ff.count != 0)
    && (F.cutoffPresent == (recomputedMask F != 0 || F.gain0 != F.gain1))
    && (F.cutoff == (if F.cutoffPresent then { Envelope.blank with segs := F.cutoff.segs } else Envelope.blank))
    && F.cutoff.carried

/-- A voice an image can carry: what the reader produces, with a frequency envelope that does not read as an empty
slot (`30_encoding.md` R92). -/
def Voice.carried (V : Voice) : Bool :=
  V.frequency.carried && (V.frequency.waveform != .off) && V.amplitude.carried
    && V.pitchLfo.carried && V.amplitudeLfo.carried && V.gate.carried
    && decide (V.partials.length ≤ 10) && V.partials.all (fun p => p.amplitude != 0)
    && (if V.filterPresent then V.filter.carried else V.filter == Filter.blank)

/-- A slot an image can carry. -/
def Slot.carried (x : Slot) : Bool := if x.valid then x.voice.carried else x == Slot.blank

/-- A patch an image can carry. -/
def Cfg.carried (c : Cfg) : Bool := tenIndices.all (fun v => (vget c.slot v).carried)

end Sys2Proof.Machine
end

