-- ==== Sys2Proof/Certificates/Slice0/Obligations.lean ====
section
/-! DEFINITION. The statements about the model, for the provers. An equation `exec i s = .next t` says that the
instruction completes; a state written as `s` with some registers set says that every other register, the image and
both sample buffers are as before. `93_implementation_defined.md` U1: where a word wraps the model is one possible
machine, and each statement says what wraps. -/

open Sys2Proof Sys2Proof.Machine

/-! ## Encoding and the step -/

/-- Decoding the encoding of any well-formed instruction at its place gives it back, whatever bytes follow, and leaves
the bytes that the row does not consume. -/
def Obligations.RoundTrip : Prop :=
  ∀ (i : Instr) (rest : List Byte), i.wellFormed = true →
    decode (placeOf i) (encode i ++ rest) = .ok (i, (encode i ++ rest).drop (consumed i))

/-- What the decoder answers is well formed, stands at the place asked for, and its encoding is what was read. -/
def Obligations.DecodeSound : Prop :=
  ∀ (place : Place) (bs rest : List Byte) (i : Instr), decode place bs = .ok (i, rest) →
    i.wellFormed = true ∧ placeOf i = place ∧ bs.take (encode i).length = encode i ∧ rest = bs.drop (consumed i)

/-- A few words decode to the instruction they stand for. -/
def Obligations.SampleWords : Prop :=
  decode .operation [0x02] = .ok (.cmdRender, []) ∧
  decode .operation [0x34] = .ok (.genNoise, []) ∧
  decode .operation [0x35] = .error (.unassigned 0x35) ∧
  decode .waveform [0x03] = .ok (.wfSaw, []) ∧
  decode .segment [0x80, 0x00, 0x03, 0xE8] = .ok (.imgSegment 32768 1000, []) ∧
  decode .oscillator [0x64, 0x40, 0x00] = .ok (.imgPartial (.one 100) (.one 64) (.one 0), []) ∧
  decode .ssmart [0xC0, 0x40] = .ok (.ssmart2 0x4040, []) ∧
  decode .filter [0x21, 0x01, 0x00, 0x01, 0x00, 0x11] = .ok (.imgFilterHeader 2 1 256 256 0x11, [])

/-- A step runs the instruction that stands at the sequencer's place, with the place taken; with no place it rests; a
row that the end of the image cuts it runs as the cut row; at a code that names nothing it refuses by name. -/
def Obligations.StepRunsDecoded : Prop :=
  ∀ s : State,
    (s.pending = none → step s = .next s) ∧
    ∀ place, s.pending = some place →
      (∀ i rest, decode place (fetchBytes place s) = .ok (i, rest) → step s = exec i (s.setPending none)) ∧
      (∀ p, decode place (fetchBytes place s) = .error (.short p) → step s = execCutRow place (s.setPending none)) ∧
      (∀ code, decode place (fetchBytes place s) = .error (.unassigned code) →
        step s = .refused (.unassignedCode code))

/-- A step runs the well-formed instruction whose bytes stand in the command register or at the loader's cursor. -/
def Obligations.StepRunsEncoded : Prop :=
  ∀ (s : State) (i : Instr), i.wellFormed = true → s.pending = some (placeOf i) →
    (if placeOf i = .operation then encode i = [s.cmd] else s.holds (encode i)) →
    step s = exec i (s.setPending none)

/-- The smart integers: the shortest form and its bytes, the value read back, every two-byte form accepted, and
`E_INVALID_ARG` outside the ranges. -/
def Obligations.SmartIntegers : Prop :=
  ∀ v : Int,
    (0 ≤ v → v ≤ 127 →
      ∃ f, unsignedForm v = .ok f ∧ encodeSmart f = [BitVec.ofInt 8 v] ∧ unsignedSmart f = v) ∧
    (128 ≤ v → v ≤ 32767 →
      ∃ f, unsignedForm v = .ok f ∧ encodeSmart f = bytes16 (BitVec.ofInt 16 (v + 32768)) ∧ unsignedSmart f = v) ∧
    (-64 ≤ v → v ≤ 63 →
      ∃ f, signedForm v = .ok f ∧ encodeSmart f = [BitVec.ofInt 8 (v + 64)] ∧ signedSmart f = v) ∧
    (-16384 ≤ v → v ≤ 16383 → v < -64 ∨ 63 < v →
      ∃ f, signedForm v = .ok f ∧ encodeSmart f = bytes16 (BitVec.ofInt 16 (v + 49152)) ∧ signedSmart f = v) ∧
    (v < 0 ∨ 32767 < v → unsignedForm v = .error .invalidArg) ∧
    (v < -16384 ∨ 16383 < v → signedForm v = .error .invalidArg) ∧
    (∀ x : BitVec 15, unsignedSmart (.two x) = x.toNat ∧ signedSmart (.two x) = (x.toNat : Int) - 16384)

/-! ## Envelope unit -/

/-- `ENV.RESET`. -/
def Obligations.EnvReset : Prop :=
  ∀ s : State, exec .envReset s = .next (s.setEnvRegs s.io.role
    ⟨BitVec.ofInt 64 ((s.voice.envelope s.io.role).start.toInt * 32768), 0, 1, 0, 0⟩)

/-- `ENV.EVAL`: without segments, between advances, and at an advance; the operands and the value are the latches of
log 3, and the count of a register at 2^32 - 1 wraps to 0 (log 37). -/
def Obligations.EnvEval : Prop :=
  ∀ s : State,
    let E := s.voice.envelope s.io.role
    let r := s.env.get s.io.role
    let peak := fun k : Nat => ((E.segs[k]?).getD ⟨0, 0⟩).peak.toInt
    let next := min (r.idx.toNat + 1) (E.segs.length - 1)
    let thr := ((E.segs[next]?).getD ⟨0, 0⟩).dur.toNat * s.io.period.toNat / 65536
    let delta := if r.ticks.toNat < thr then
        Int.tdiv (peak next * 32768 - peak r.idx.toNat * 32768) ((thr : Int) - r.ticks.toNat) else 0
    (E.segs = [] → exec .envEval s = .next (s.setIo { s.io with value := E.start })) ∧
    (E.segs ≠ [] → r.ticks.toNat < r.thr.toNat → exec .envEval s = .next
      ((s.setEnvRegs s.io.role { r with level := r.level + r.delta, ticks := r.ticks + 1 }).setIo
        { s.io with value := (r.level.sshiftRight 15).setWidth 32 })) ∧
    (r.idx.toNat < E.segs.length → E.segs.length ≤ 255 → r.thr.toNat ≤ r.ticks.toNat → exec .envEval s = .next
      ((s.setEnvRegs s.io.role ⟨BitVec.ofInt 64 (peak r.idx.toNat * 32768 + delta), BitVec.ofInt 64 delta,
        BitVec.ofNat 32 thr, BitVec.ofNat 8 next, r.ticks + 1⟩).setIo
          { s.io with value := BitVec.ofInt 32 (peak r.idx.toNat) }))

/-- After a reset no number of evaluations leaves the range of the start and the peaks. -/
def Obligations.EnvelopeBounds : Prop :=
  ∀ (s : State) (lo hi : Int) (calls : Nat),
    let E := s.voice.envelope s.io.role
    E.segs ≠ [] → lo ≤ E.start.toInt → E.start.toInt ≤ hi →
    (∀ g ∈ E.segs, lo ≤ g.peak.toInt ∧ g.peak.toInt ≤ hi) → 1 ≤ calls → calls < 4294967296 →
    ∃ t, andThen (exec .envReset s) (execTimes .envEval calls) = .next t ∧
      lo ≤ t.io.value.toInt ∧ t.io.value.toInt ≤ hi

/-! ## Oscillator unit -/

/-- The five generators, in integers: the masked phase, the wrapped product, the floor of the shift. -/
def Obligations.Generators : Prop :=
  ∀ s : State,
    let p := s.io.phase.toNat % 32768
    let a := s.io.amp.toInt
    exec .genOff s = .next (s.latchSample 0) ∧
    exec .genSquare s = .next (s.latchSample (BitVec.ofInt 32 (if p < 8192 then a else -a))) ∧
    exec .genSine s = .next (s.latchSample
      (BitVec.ofInt 32 ((BitVec.ofInt 32 (Config.params.sine p * a)).toInt / 16384))) ∧
    exec .genSaw s = .next (s.latchSample
      (BitVec.ofInt 32 ((BitVec.ofInt 32 ((p : Int) * a)).toInt / 16384 - a))) ∧
    exec .genNoise s = .next (s.latchSample (BitVec.ofInt 32 (Config.params.noise (p / 2607) * a)))

/-- Where no product wraps, sine, saw and noise stay within the amplitude (the contracts of the two tables). -/
def Obligations.GeneratorsWithinAmplitude : Prop :=
  ∀ s : State,
    let a := s.io.amp.toInt
    (-131072 < a → a < 131072 →
      ∃ t, exec .genSine s = .next t ∧ t.io.sample.toInt.natAbs ≤ a.natAbs) ∧
    (-65536 < a → a < 65536 →
      ∃ t, exec .genSaw s = .next t ∧ t.io.sample.toInt.natAbs ≤ a.natAbs) ∧
    (-2147483648 < a →
      ∃ t, exec .genNoise s = .next t ∧ (t.io.sample.toInt = a ∨ t.io.sample.toInt = -a))

/-- `LFO.VIB` and `LFO.TREM`: performed only when the voice has the oscillator; operands and results are latched. -/
def Obligations.LowFrequencyOscillators : Prop :=
  ∀ s : State,
    let V := s.voice
    let vr := envEvalRegs V.pitchLfo.first s.env.vibr s.vs.count
    let vd := envEvalRegs V.pitchLfo.second s.env.vibd s.vs.count
    let tr := envEvalRegs V.amplitudeLfo.first s.env.trmr s.vs.count
    let td := envEvalRegs V.amplitudeLfo.second s.env.trmd s.vs.count
    let mod := (oscGen Config.params td.1 s.osc.tremPhase V.amplitudeLfo.first.waveform).sshiftRight 1
    (V.pitchLfo.present = false → exec .lfoVib s = .next s) ∧
    (V.pitchLfo.present = true → exec .lfoVib s = .next
      (((s.setEnv { s.env with vibr := vr.2, vibd := vd.2 }).setOsc
        { s.osc with vibPhase := s.osc.vibPhase + s.vs.vibBase + (vr.1 * s.vs.vibStep).sshiftRight 16 }).setIo
        { s.io with freq := s.io.freq
            + (oscGen Config.params vd.1 s.osc.vibPhase V.pitchLfo.first.waveform).sshiftRight 1 })) ∧
    (V.amplitudeLfo.present = false → exec .lfoTrem s = .next s) ∧
    (V.amplitudeLfo.present = true → exec .lfoTrem s = .next
      (((s.setEnv { s.env with trmr := tr.2, trmd := td.2 }).setOsc
        { s.osc with tremPhase := s.osc.tremPhase + s.vs.tremBase + (tr.1 * s.vs.tremStep).sshiftRight 16 }).setIo
        { s.io with ampl := (s.io.ampl * (mod + 32768)).sshiftRight 15 }))

/-- An oscillator of depth 0 changes nothing: the frequency stays, and the amplitude stays where its product does not
wrap, whatever the waveform. -/
def Obligations.ZeroDepth : Prop :=
  ∀ s : State,
    (s.voice.pitchLfo.second.segs = [] → s.voice.pitchLfo.second.start = 0 →
      ∃ t, exec .lfoVib s = .next t ∧ t.io.freq = s.io.freq) ∧
    (s.voice.amplitudeLfo.second.segs = [] → s.voice.amplitudeLfo.second.start = 0 →
      -65536 ≤ s.io.ampl.toInt → s.io.ampl.toInt < 65536 →
      ∃ t, exec .lfoTrem s = .next t ∧ t.io.ampl = s.io.ampl)

/-- `OSC.PARTIAL` for the partial `SEQ.i`: nothing out of range; in range one word is added to, and that partial's
phase advances; in range where the buffer holds no such word, the fault of R50 (log 7). -/
def Obligations.OscPartial : Prop :=
  ∀ s : State,
    let i := s.seq.i
    let pos := s.seq.n.toNat + (vget s.vs.delay i).toNat
    let phase := vget s.osc.phase i
    (s.vs.count.toNat ≤ pos → exec .oscPartial s = .next s) ∧
    (pos < s.vs.count.toNat → pos < s.vb.words.length →
      ∃ t, exec .oscPartial s = .next t ∧ t = (s.setVb t.vb).setOsc t.osc ∧ t.vb.array = s.vb.array ∧
        t.vb.read pos = some (s.vb.term pos + oscGen Config.params
          ((s.io.ampl * vget s.vs.vol i).sshiftRight 15) phase s.voice.frequency.waveform) ∧
        (∀ j, j ≠ pos → t.vb.read j = s.vb.read j) ∧
        vget t.osc.phase i = phase + (s.io.freq * vget s.vs.inc i).sshiftRight 16 + vget s.vs.base i ∧
        (∀ j, j ≠ i → vget t.osc.phase j = vget s.osc.phase j) ∧
        t.osc.vibPhase = s.osc.vibPhase ∧ t.osc.tremPhase = s.osc.tremPhase) ∧
    (pos < s.vs.count.toNat → s.vb.words.length ≤ pos → exec .oscPartial s = .fault .vbNoValue)

/-- `OSC.SAMPLE` where the buffer holds the word of every partial in range: every phase, of the partials and of both
low-frequency oscillators; every word of the voice buffer as a sum over the partials that reach it; each evaluator of
a present record advanced once and every other as before; and nothing else but `SEQ.i` (log 15). Where a partial in
range finds no word, the fault of R50 (log 7). -/
def Obligations.OscSample : Prop :=
  ∀ s : State,
    let V := s.voice
    let n := s.seq.n.toNat
    let f0 := envEvalRegs V.frequency s.env.freq s.vs.count
    let a0 := envEvalRegs V.amplitude s.env.amp s.vs.count
    let vr := envEvalRegs V.pitchLfo.first s.env.vibr s.vs.count
    let vd := envEvalRegs V.pitchLfo.second s.env.vibd s.vs.count
    let tr := envEvalRegs V.amplitudeLfo.first s.env.trmr s.vs.count
    let td := envEvalRegs V.amplitudeLfo.second s.env.trmd s.vs.count
    let vib := V.pitchLfo.present
    let trem := V.amplitudeLfo.present
    let mod := (oscGen Config.params td.1 s.osc.tremPhase V.amplitudeLfo.first.waveform).sshiftRight 1
    let f := if vib then
        f0.1 + (oscGen Config.params vd.1 s.osc.vibPhase V.pitchLfo.first.waveform).sshiftRight 1 else f0.1
    let a := if trem then (a0.1 * (mod + 32768)).sshiftRight 15 else a0.1
    let live := fun i : Fin 10 =>
      decide (i.val < V.partials.length) && decide (n + (vget s.vs.delay i).toNat < s.vs.count.toNat)
    ((∀ i, live i = true → n + (vget s.vs.delay i).toNat < s.vb.words.length) → ∃ t, exec .oscSample s = .next t ∧
      t = (((s.setEnv t.env).setOsc t.osc).setVb t.vb).setSeq { s.seq with i := t.seq.i } ∧
      t.env = { s.env with
        freq := f0.2, amp := a0.2
        vibr := if vib then vr.2 else s.env.vibr
        vibd := if vib then vd.2 else s.env.vibd
        trmr := if trem then tr.2 else s.env.trmr
        trmd := if trem then td.2 else s.env.trmd } ∧
      (∀ i, vget t.osc.phase i =
        if live i then vget s.osc.phase i + (f * vget s.vs.inc i).sshiftRight 16 + vget s.vs.base i
        else vget s.osc.phase i) ∧
      t.osc.vibPhase = (if vib then s.osc.vibPhase + s.vs.vibBase + (vr.1 * s.vs.vibStep).sshiftRight 16
        else s.osc.vibPhase) ∧
      t.osc.tremPhase = (if trem then s.osc.tremPhase + s.vs.tremBase + (tr.1 * s.vs.tremStep).sshiftRight 16
        else s.osc.tremPhase) ∧
      t.vb.array = s.vb.array ∧ t.vb.words.length = s.vb.words.length ∧
      (∀ j, s.vs.count.toNat ≤ j → t.vb.read j = s.vb.read j) ∧
      (∀ j, j < s.vs.count.toNat → t.vb.term j =
        (tenIndices.filter fun i => live i && decide (n + (vget s.vs.delay i).toNat = j)).foldl
          (fun x i => x + oscGen Config.params ((a * vget s.vs.vol i).sshiftRight 15) (vget s.osc.phase i)
            V.frequency.waveform) (s.vb.term j))) ∧
    (∀ i, live i = true → s.vb.words.length ≤ n + (vget s.vs.delay i).toNat →
      exec .oscSample s = .fault .vbNoValue)

/-! ## Voice datapath -/

/-- `VOICE.SETUP`: a short voice gets `VS.N = 0` and no other register; any other gets its derived registers, as
truncated exact rationals, its zeroed buffer, its reset evaluators and its phases; where the platform cannot supply the
buffer (log 17), `E_FAIL` with the two registers that stand before the acquisition. `SEQ.stage` is the model's
(log 15). -/
def Obligations.VoiceSetup : Prop :=
  ∀ s : State,
    let V := s.voice
    let count := V.duration.toNat * 22050 / 1000
    let sps : Rat := (count : Rat) / (V.duration.toNat : Rat)
    let scale := ratOf Config.params.phaseScale
    let F := V.frequency
    ∃ t, exec .voiceSetup s = .next t ∧
      if V.duration.toNat < Config.params.minDuration then
        t = (s.setSeq { s.seq with stage := .setup }).setVs { s.vs with count := 0 }
      else if Config.params.supplies count = false then
        t = ((s.setSeq { s.seq with stage := .setup }).setVs
          { s.vs with count := BitVec.ofNat 32 count, sps := t.vs.sps }).fatalEntry .fail ∧ ratOf t.vs.sps = sps
      else
        t = (((((s.setSeq { s.seq with stage := .setup }).setVs t.vs).setVb t.vb).setPool t.pool).setEnv t.env).setOsc
          ⟨Vector.replicate 10 0, 0, 0⟩ ∧
        t.vs.count.toNat = count ∧ ratOf t.vs.sps = sps ∧ t.vb.words = List.replicate count 0 ∧
        t.env = ⟨envResetRegs F, envResetRegs V.amplitude,
          if V.pitchLfo.present then envResetRegs V.pitchLfo.first else s.env.vibr,
          if V.pitchLfo.present then envResetRegs V.pitchLfo.second else s.env.vibd,
          if V.amplitudeLfo.present then envResetRegs V.amplitudeLfo.first else s.env.trmr,
          if V.amplitudeLfo.present then envResetRegs V.amplitudeLfo.second else s.env.trmd,
          s.env.gsil, s.env.gdur, s.env.cut⟩ ∧
        (∀ (i : Fin 10) (p : Partial), V.partials[i.val]? = some p →
          vget t.vs.delay i = wrapTrunc ((p.delay.toNat : Rat) * sps) ∧
          vget t.vs.vol i = BitVec.ofInt 32 (Int.tdiv (p.amplitude.toNat * 16384) 100) ∧
          vget t.vs.inc i = wrapTrunc (((F.stop.toInt - F.start.toInt : Int) : Rat) * scale
            * ratOf (Config.params.pitchRatio p.pitchOffset.toInt) / sps) ∧
          vget t.vs.base i = wrapTrunc ((F.start.toInt : Rat) * scale
            * ratOf (Config.params.pitchRatio p.pitchOffset.toInt) / sps)) ∧
        (V.pitchLfo.present = true →
          t.vs.vibStep = wrapTrunc (((V.pitchLfo.first.stop.toInt - V.pitchLfo.first.start.toInt : Int) : Rat)
            * scale / sps) ∧
          t.vs.vibBase = wrapTrunc ((V.pitchLfo.first.start.toInt : Rat) * scale / sps)) ∧
        (V.amplitudeLfo.present = true →
          t.vs.tremStep = wrapTrunc (((V.amplitudeLfo.first.stop.toInt - V.amplitudeLfo.first.start.toInt : Int)
            : Rat) * scale / sps) ∧
          t.vs.tremBase = wrapTrunc ((V.amplitudeLfo.first.start.toInt : Rat) * scale / sps)) ∧
        t.vs.echoDelay = wrapTrunc ((V.echoDelay.toNat : Rat) * sps)

/-- `VOICE.SYNTH` where the buffer holds `VS.N` words is `OSC.SAMPLE` at `SEQ.n = 0, ..., VS.N - 1`, from
`SEQ.stage` = SYNTH (log 15), and touches only the oscillator's registers, the evaluators and the voice buffer's words.
Where the buffer is shorter and a partial starts within the voice, the fault of R50 (log 7). -/
def Obligations.VoiceSynth : Prop :=
  ∀ s : State,
    let count := s.vs.count.toNat
    (count ≤ s.vb.words.length → ∃ t, exec .voiceSynth s = .next t ∧
      execAt .oscSample 0 count (s.setSeq { s.seq with stage := .synth }) = .next t ∧
      t = (((s.setSeq t.seq).setEnv t.env).setOsc t.osc).setVb t.vb ∧
      t.seq.state = s.seq.state ∧ t.seq.voice = s.seq.voice ∧ t.vb.array = s.vb.array ∧
      t.vb.words.length = s.vb.words.length ∧ ∀ j, count ≤ j → t.vb.read j = s.vb.read j) ∧
    (∀ i : Fin 10, i.val < s.voice.partials.length → (vget s.vs.delay i).toNat < count →
      s.vb.words.length < count → exec .voiceSynth s = .fault .vbNoValue)

/-- `GATE.INIT`; and `GATE.STEP` at `n = SEQ.n`: both evaluators tick, the adaptive threshold, the counter, the flip,
and the zeroed sample while muted. -/
def Obligations.Gate : Prop :=
  ∀ s : State,
    let S := s.voice.gate.first
    let sil := envEvalRegs S s.env.gsil s.vs.count
    let dur := envEvalRegs s.voice.gate.second s.env.gdur s.vs.count
    let thr := S.start + ((S.stop - S.start) * (if s.gate.muted then sil.1 else dur.1)).sshiftRight 8
    let ctr := s.gate.ctr + 256
    let flip := decide (thr.toInt ≤ ctr.toInt)
    let muted := if flip then !s.gate.muted else s.gate.muted
    exec .gateInit s = .next
      ((s.setEnv { s.env with gsil := envResetRegs S, gdur := envResetRegs s.voice.gate.second }).setGate
        { s.gate with ctr := 0, muted := true }) ∧
    ∃ t, exec .gateStep s = .next t ∧
      t = (((s.setEnv { s.env with gsil := sil.2, gdur := dur.2 }).setGate
        ⟨if flip then 0 else ctr, muted, thr⟩).setVb t.vb) ∧
      t.vb.array = s.vb.array ∧
      ∀ j, t.vb.read j =
        if muted = true ∧ j = s.seq.n.toNat then (s.vb.read j).map fun _ => 0 else s.vb.read j

/-- `ECHO.APPLY`: the in-place recursion. Each word from the delay on is its old value and the scaled NEW value one
delay before it, and with a delay of 0 its old value and that value scaled; of `SEQ` only `SEQ.stage` and `SEQ.n` may
change (log 15). Where it reads an index the buffer does not hold, the fault of R50 (log 7). -/
def Obligations.EchoApply : Prop :=
  ∀ s : State,
    let d := s.vs.echoDelay.toNat
    let count := s.vs.count.toNat
    (count ≤ s.vb.words.length ∨ count ≤ d →
      ∃ t, exec .echoApply s = .next t ∧
        t = (s.setSeq { s.seq with stage := t.seq.stage, n := t.seq.n }).setVb t.vb ∧
        t.vb.array = s.vb.array ∧ t.vb.words.length = s.vb.words.length ∧
        (∀ j, j < d ∨ count ≤ j → t.vb.read j = s.vb.read j) ∧
        (0 < d → ∀ j, d ≤ j → j < count →
          t.vb.term j = s.vb.term j + BitVec.ofInt 32
            (Int.tdiv (BitVec.ofInt 32 ((t.vb.term (j - d)).toInt * s.voice.echoMix.toNat)).toInt 100)) ∧
        (d = 0 → ∀ j, j < count →
          t.vb.term j = s.vb.term j + BitVec.ofInt 32
            (Int.tdiv (BitVec.ofInt 32 ((s.vb.term j).toInt * s.voice.echoMix.toNat)).toInt 100))) ∧
    (s.vb.words.length < count → d < count → exec .echoApply s = .fault .vbNoValue)

/-- `VOICE.CLIP` and `MIX.CLIP`: every word below the length is clamped to the 16-bit range, every other word stays,
and of `SEQ` only `SEQ.stage` and `SEQ.n` may change (log 15). Where the buffer is shorter, the fault of R50
(log 7). -/
def Obligations.Clips : Prop :=
  ∀ s : State,
    let clamped := fun (b c : Buffer) (n : Nat) => c.array = b.array ∧
      ∀ j, (c.read j).map BitVec.toInt =
        if j < n then (b.read j).map fun x => max (-32768) (min 32767 x.toInt) else (b.read j).map BitVec.toInt
    (s.vs.count.toNat ≤ s.vb.words.length → ∃ t, exec .voiceClip s = .next t ∧
      t = (s.setSeq { s.seq with stage := t.seq.stage, n := t.seq.n }).setVb t.vb ∧
      clamped s.vb t.vb s.vs.count.toNat) ∧
    (s.vb.words.length < s.vs.count.toNat → exec .voiceClip s = .fault .vbNoValue) ∧
    (s.mix.total.toNat ≤ s.mb.words.length → ∃ t, exec .mixClip s = .next t ∧
      t = (s.setSeq { s.seq with stage := t.seq.stage, n := t.seq.n }).setMb t.mb ∧
      clamped s.mb t.mb s.mix.total.toNat) ∧
    (s.mb.words.length < s.mix.total.toNat → exec .mixClip s = .fault .mbNoValue)

/-- `VOICE.RENDER` is its stages in order, each as the operation of its own: setup, the exit of a short voice,
synthesis, the gate if present, the echo if both its fields are greater than 0, the filter if present, the clip. Where
the platform cannot supply the buffer (log 17) the setup, which then ends in `E_FAIL`, is all of it. That `SEQ.stage` is
GATE in the gate's loop is the model's (log 15). -/
def Obligations.VoiceRender : Prop :=
  ∀ s : State,
    let V := s.voice
    ∃ t, exec .voiceRender s = .next t ∧
      (andThen (exec .voiceSetup s) fun a =>
        if a.vs.count = 0 ∨ V.supplied Config.params = false then .next a else
        andThen (exec .voiceSynth a) fun b =>
        andThen (if V.gate.present then
            andThen (exec .gateInit (b.setSeq { b.seq with stage := .gate })) (execAt .gateStep 0 b.vs.count.toNat)
          else .next b) fun c =>
        andThen (if 0 < V.echoDelay.toNat ∧ 0 < V.echoMix.toNat then exec .echoApply c else .next c) fun d =>
        andThen (if V.filterPresent then exec .fltApply d else .next d) (exec .voiceClip)) = .next t

/-- The result of a voice whose buffer the platform supplies: no buffer written for a short one, else `VS.N` words, all
in the 16-bit range; the mixer's registers, the mix buffer, the configuration, the image and the status are as before.
A buffer that it cannot supply (log 17) ends the operation in `E_FAIL`, with no word of the voice buffer written. -/
def Obligations.VoiceResult : Prop :=
  ∀ s : State,
    let V := s.voice
    ∃ t, exec .voiceRender s = .next t ∧
    if V.supplied Config.params then
      t = (((((((s.setSeq t.seq).setVs t.vs).setVb t.vb).setPool t.pool).setEnv t.env).setOsc t.osc).setGate
        t.gate).setFlt t.flt ∧
      t.seq.state = s.seq.state ∧ t.seq.voice = s.seq.voice ∧
      if V.duration.toNat < Config.params.minDuration then t.vs.count = 0 ∧ t.vb = s.vb
      else t.vs.count.toNat = V.duration.toNat * 22050 / 1000 ∧
        t.vb.words.length = t.vs.count.toNat ∧ ∀ x ∈ t.vb.words, inRange16 x
    else
      t = ((((((s.setErrCause 0x12).setStatus { s.status with busy := false, done := false, error := true }).setOutLen
        0).setSeq { s.seq with state := .error, stage := .setup }).setVs
          { s.vs with count := t.vs.count, sps := t.vs.sps }).setCfg t.cfg).setMb t.mb ∧
      t.vs.count.toNat = V.duration.toNat * 22050 / 1000 ∧
      t.cfg = (if s.seq.state = .loading then s.cfg.cleared else s.cfg) ∧
      t.mb = (if s.seq.state = .rendering then Buffer.blank else s.mb)

/-- Voices share nothing: from two states with one configuration, whatever the working registers, the buffers and the
pool hold, a slot renders to the same samples, or to `E_FAIL` from both where the platform cannot supply the buffer
(log 17). -/
def Obligations.VoicesShareNothing : Prop :=
  ∀ s u : State, s.cfg.slot = u.cfg.slot → s.seq.voice = u.seq.voice →
    ∃ t w, exec .voiceRender s = .next t ∧ exec .voiceRender u = .next w ∧
      t.vs.count = w.vs.count ∧
      if s.voice.supplied Config.params then t.vs.count ≠ 0 → t.vb.words = w.vb.words
      else t.seq.state = .error ∧ w.seq.state = .error ∧ t.errCause = 0x12 ∧ w.errCause = 0x12

/-! ## Filter unit -/

/-- `FLT.STEP` at `n = SEQ.n`: the exact sum of the direct term, the feedforward taps and the feedback taps that lie
below `VS.N`, and its shift into word `n` where the buffer has one (a tap register that does not exist contributes
nothing: log 23; a sum beyond 64 bits wraps: log 36). Where it reads an index below `VS.N` that the buffer does not hold, the fault of R50 (log 7). -/
def Obligations.FilterStep : Prop :=
  ∀ s : State,
    let F := s.voice.filter
    let n := s.seq.n.toNat
    let c0 := 2 * F.ff.count.toNat
    let c1 := 2 * F.fb.count.toNat
    let count := s.vs.count.toNat
    let x := fun j : Nat => (s.vb.term j).toInt
    let ff := fun k : Nat => ((s.flt.ff[k]?).getD 0).toInt
    let fb := fun k : Nat => ((s.flt.fb[k]?).getD 0).toInt
    let sum : Int := (if n + c0 < count then s.flt.g.toInt * x (n + c0) else 0)
      + (∑ k ∈ Finset.range c0, if n + c0 - k < count then ff k * x (n + c0 - k) else 0)
      - (∑ k ∈ Finset.range c1, if k < n ∧ n - 1 - k < count then fb k * x (n - 1 - k) else 0)
    (count ≤ s.vb.words.length →
      ∃ t, exec .fltStep s = .next t ∧ t = (s.setFlt { s.flt with acc := BitVec.ofInt 64 sum }).setVb t.vb ∧
        t.vb.array = s.vb.array ∧
        t.vb.read n = (s.vb.read n).map (fun _ => ((BitVec.ofInt 64 sum).sshiftRight 16).setWidth 32) ∧
        ∀ j, j ≠ n → t.vb.read j = s.vb.read j) ∧
    (F.ff.count.toNat ≤ 4 → F.fb.count.toNat ≤ 4 → ∀ j, j < count → s.vb.words.length ≤ j →
      (c0 = 0 ∧ j = n) ∨ (n < j ∧ j ≤ n + c0) ∨ (j < n ∧ n ≤ j + c1) → exec .fltStep s = .fault .vbNoValue)

/-- `FLT.COEF` completes in every state and writes only `FLT.g` and the taps that the pole counts name: the formulas
of the gain, of each pole's amplitude and angle and section, the cascade, the gain on the feedforward taps alone, and
the truncation to 16.16, over the free operations of `Num`. Three results are there whatever `Num` and the scales are,
as the rules say of an exact interpolated value of 0 (log 10): a gain of 1, an amplitude of 0, and a channel whose
amplitudes are all 0 has taps 0. So with all magnitudes 0 every tap is 0, and with both gains 0 `FLT.g` is 65536. -/
def Obligations.FilterIdentity : Prop :=
  ∀ s : State,
    let F := s.voice.filter
    let P := Config.params
    let N := P.num
    let pos : Int := if F.cutoffPresent then s.flt.tval.toInt else 0
    let t : Rat := if F.cutoffPresent then N.div (s.flt.tval.toInt : Rat) 65536 else 0
    let between := fun x y : BitVec 16 =>
      N.add (x.toNat : Rat) (N.mul (N.add (y.toNat : Rat) (-(x.toNat : Rat))) t)
    let isZero := fun x y : BitVec 16 => decide ((65536 - pos) * x.toNat + pos * y.toNat = 0)
    let falling := fun x scale : Rat => N.pow10 (N.div (-(N.mul x scale)) 20)
    let gain : Rat := if isZero F.gain0 F.gain1 then 1 else falling (between F.gain0 F.gain1) P.unityDbScale
    let amp := fun (c : Channel) (p : Fin 4) =>
      let m0 := (vget c.first p).magnitude
      let m1 := (vget c.last p).magnitude
      if isZero m0 m1 then 0 else N.add 1 (-(falling (between m0 m1) P.magDbScale))
    let angle := fun (c : Channel) (p : Fin 4) =>
      let octaves := N.mul (between (vget c.first p).phase (vget c.last p).phase) P.phaseOctScale
      N.div (N.mul (N.mul 2 N.pi) (N.mul (32703197 / 1000000) (N.exp2 octaves))) 22050
    let sect := fun (c : Channel) (p : Fin 4) =>
      (N.mul (N.mul (-2) (amp c p)) (N.cos (angle c p)), N.mul (amp c p) (amp c p))
    let poles := fun c : Channel => ([0, 1, 2, 3] : List (Fin 4)).take c.count.toNat
    let tap := fun (c : Channel) (scale : Rat → Rat) (k : Nat) =>
      if (poles c).all (fun p => amp c p == 0) then 0
      else scale (((((poles c).map (sect c)).foldl (cascade N) [])[k]?).getD 0)
    let silent := fun c : Channel => ∀ p : Fin 4, p.val < c.count.toNat →
      (vget c.first p).magnitude = 0 ∧ (vget c.last p).magnitude = 0
    ∃ u, exec .fltCoef s = .next u ∧
      u = s.setFlt { s.flt with g := u.flt.g, ff := u.flt.ff, fb := u.flt.fb } ∧
      u.flt.g = wrapTrunc (gain * 65536) ∧
      (∀ k : Fin 8, vget u.flt.ff k = if k.val < 2 * F.ff.count.toNat then
        wrapTrunc (tap F.ff (fun x => N.mul x gain) k.val * 65536) else vget s.flt.ff k) ∧
      (∀ k : Fin 8, vget u.flt.fb k = if k.val < 2 * F.fb.count.toNat then
        wrapTrunc (tap F.fb (fun x => x) k.val * 65536) else vget s.flt.fb k) ∧
      (silent F.ff → ∀ k : Fin 8, k.val < 2 * F.ff.count.toNat → vget u.flt.ff k = 0) ∧
      (silent F.fb → ∀ k : Fin 8, k.val < 2 * F.fb.count.toNat → vget u.flt.fb k = 0) ∧
      (F.gain0 = 0 → F.gain1 = 0 → u.flt.g = 65536)

/-- The cascade of sections is the product of the monic polynomials, over exact arithmetic: one more section extends
the vector by exactly two entries, and two poles give the four coefficients the rule writes out. -/
def Obligations.FilterCascade : Prop :=
  ∀ (P : Params), (∀ x y, P.num.add x y = x + y) → (∀ x y, P.num.mul x y = x * y) →
    (∀ (C : List Rat) (a b : Rat), (cascade P.num C (a, b)).length = C.length + 2 ∧
      ∀ j, j < C.length + 2 →
        (cascade P.num C (a, b))[j]? = some ((C[j]?).getD 0 + a * (if j = 0 then 1 else (C[j - 1]?).getD 0)
          + b * (if j = 0 then 0 else if j = 1 then 1 else (C[j - 2]?).getD 0))) ∧
    (∀ (F : Filter) (tval : Word) (c : Channel), c.count = 2 →
      let sect := fun p : Fin 4 => sectionOf P.num (poleAmplitude P F tval (vget c.first p) (vget c.last p))
        (poleAngle P F tval (vget c.first p) (vget c.last p))
      let s0 := sect 0
      let s1 := sect 1
      channelVector P F tval c (fun x => x) =
        [s0.1 + s1.1, s0.1 * s1.1 + s0.2 + s1.2, s0.1 * s1.2 + s1.1 * s0.2, s0.2 * s1.2])

/-- `FLT.APPLY` where the buffer holds `VS.N` words is the loop over `FLT.COEF` and `FLT.STEP` with the cutoff
evaluator reset before it, from `SEQ.stage` = FILTER (log 15), and touches only the filter's registers, that evaluator
and the first `VS.N` words of the voice buffer. Where it reads an index the buffer does not hold, the fault of R50
(log 7). -/
def Obligations.FilterApply : Prop :=
  ∀ s : State,
    let F := s.voice.filter
    let count := s.vs.count.toNat
    let start := s.setSeq { s.seq with stage := .filter }
    (count ≤ s.vb.words.length → ∃ t, exec .fltApply s = .next t ∧
      filterSamples 0 count
        (if F.cutoffPresent then start.setEnv { s.env with cut := envResetRegs F.cutoff } else start) = .next t ∧
      t = (((s.setSeq { s.seq with stage := t.seq.stage, n := t.seq.n }).setEnv { s.env with cut := t.env.cut }).setFlt
        t.flt).setVb t.vb ∧
      t.vb.array = s.vb.array ∧ t.vb.words.length = s.vb.words.length ∧
      ∀ j, count ≤ j → t.vb.read j = s.vb.read j) ∧
    (s.vb.words.length < count → F.ff.count.toNat ≤ 4 → F.ff.count = 0 ∨ 1 < count →
      exec .fltApply s = .fault .vbNoValue)

/-! ## Mixer and pool -/

/-- `MIX.LEN`: the longest voice in milliseconds, converted once; the loop honoured exactly when it is not empty and
ends within the single pass; the total as the rule gives it, of which the register keeps the low 32 bits (log 16). With
no valid slot the longest voice counts as 0 (log 31). -/
def Obligations.MixLen : Prop :=
  ∀ s : State, ∃ (ms : Nat) (t : State), exec .mixLen s = .next t ∧ t = s.setMix t.mix ∧
    (∀ v, s.isValid v = true → (s.voiceOf v).start.toNat + (s.voiceOf v).duration.toNat ≤ ms) ∧
    (ms = 0 ∨ ∃ v, s.isValid v = true ∧ ms = (s.voiceOf v).start.toNat + (s.voiceOf v).duration.toNat) ∧
    let single := ms * 22050 / 1000
    let first := s.cfg.loopBegin.toNat
    let last := s.cfg.loopEnd.toNat
    t.mix.single.toNat = single ∧
    (t.mix.loopValid = true ↔ first < last ∧ last ≤ single) ∧
    (if t.mix.loopValid then (t.mix.reps.toNat : Int) = max s.cfg.loopCount.toInt 1 else t.mix.reps = 1) ∧
    t.mix.total = BitVec.ofNat 32 (single + (last - first) * (t.mix.reps.toNat - 1)) ∧
    (t.mix.loopValid = false → t.mix.total = t.mix.single)

/-- `MIX.ACC` for the slot `SEQ.voice`: each word of the window gains the voice's word at the voice's offset, no other
word changes, and of the registers only `SEQ.stage` and `SEQ.n` may (log 15). Where a word it reads is held by no
buffer, the fault of R50, `VB` tested first (log 7). -/
def Obligations.MixAcc : Prop :=
  ∀ s : State,
    let off := s.voice.start.toNat * 22050 / 1000
    let single := s.mix.single.toNat
    let adds := min s.vs.count.toNat (single - off)
    (adds ≤ s.vb.words.length → adds = 0 ∨ off + adds ≤ s.mb.words.length →
      ∃ t, exec .mixAcc s = .next t ∧
        t = (s.setSeq { s.seq with stage := t.seq.stage, n := t.seq.n }).setMb t.mb ∧ t.mb.array = s.mb.array ∧
        ∀ j, t.mb.read j = (s.mb.read j).map fun x =>
          if off ≤ j ∧ j < off + s.vs.count.toNat ∧ j < single then x + s.vb.term (j - off) else x) ∧
    (s.vb.words.length < adds → exec .mixAcc s = .fault .vbNoValue) ∧
    (adds ≤ s.vb.words.length → 0 < adds → s.mb.words.length < off + adds → exec .mixAcc s = .fault .mbNoValue)

/-- `MIX.LOOP`: the words up to the end of the region, the region again for every further time, the tail, and beyond
them the buffer as it was; of `SEQ` only `SEQ.stage` and `SEQ.n` may change (log 15). Without a valid loop played more
than once it does nothing (log 21). Where the buffer does not hold the single pass, the fault of R50 (log 7). -/
def Obligations.MixLoop : Prop :=
  ∀ s : State,
    let first := s.cfg.loopBegin.toNat
    let last := s.cfg.loopEnd.toNat
    let single := s.mix.single.toNat
    let reps := s.mix.reps.toNat
    let old := s.mb.words
    let total := single + (last - first) * (reps - 1)
    (s.mix.loopValid = false ∨ reps ≤ 1 → exec .mixLoop s = .next s) ∧
    (s.mix.loopValid = true → 1 < reps → first < last → last ≤ single → total ≤ old.length →
      ∃ t, exec .mixLoop s = .next t ∧
        t = (s.setSeq { s.seq with stage := t.seq.stage, n := t.seq.n }).setMb t.mb ∧ t.mb.array = s.mb.array ∧
        t.mb.words = old.take last ++ (List.replicate (reps - 1) ((old.take last).drop first)).flatten
          ++ (old.take single).drop last ++ old.drop total) ∧
    (s.mix.loopValid = true → 1 < reps → first < last → last ≤ single → old.length < single →
      exec .mixLoop s = .fault .mbNoValue)

/-- `MIX.RENDER` is its parts in order, each as the operation of its own. With no valid slot the output is empty; an
output that the platform's memory does not hold, that 32 bits do not say (log 16), or for which it supplies no buffer
(log 17), raises `E_FAIL` before any word is written. The first voice whose own buffer it cannot supply (log 17) ends
the render, with what `VOICE.RENDER` leaves there. -/
def Obligations.MixRender : Prop :=
  ∀ s : State,
    let one := fun (o : Host.Outcome State Fault Refusal) (v : Fin 10) =>
      andThen o fun a => andThen (exec .voiceRender (a.setSeq { a.seq with voice := v })) fun b =>
        andThen (exec .mixAcc b) fun c => .next (if c.vs.count = 0 then c else c.releaseVb Config.params)
    ∃ t, exec .mixRender s = .next t ∧
      if tenIndices.all (fun v => !s.isValid v) then t = s.setOutLen 0
      else
        ∃ a, exec .mixLen s = .next a ∧
          let total := a.mix.total.toNat
          let order := tenIndices.filter fun v => s.isValid v
          let supplied := fun v => (s.voiceOf v).supplied Config.params
          if a.outFits Config.params ∧ Config.params.supplies total = true then
            andThen ((order.takeWhile supplied).foldl one
              (.next ((a.setMb (acquired Config.params total a.pool)).setPool
                (poolAfter Config.params total a.pool)))) (fun b =>
              match order.dropWhile supplied with
              | [] => andThen (exec .mixLoop b) fun c => andThen (exec .mixClip c) fun d =>
                  .next (d.setOutLen d.mix.total)
              | v :: _ => exec .voiceRender (b.setSeq { b.seq with voice := v })) = .next t
          else t = a.fatalEntry .fail

/-- `POOL.ACQUIRE` of the latched size gives that many zero words in an array of at least that length, taken from the
pool, or of the fixed capacity, or fresh; where the platform cannot supply them (log 17), which a size of 0 never meets,
it raises `E_FAIL`, with nothing latched and the pool as before. `POOL.RELEASE` keeps only an array of exactly the fixed capacity, and no more
than the pool's size; the released buffer becomes the blank one (log 6). -/
def Obligations.Pool : Prop :=
  ∀ s : State,
    (∃ t, exec .poolAcquire s = .next t ∧
      if s.io.size = 0 ∨ Config.params.supplies s.io.size.toNat = true then
        t = (s.setIo { s.io with buf := t.io.buf }).setPool t.pool ∧
        t.io.buf.words = List.replicate s.io.size.toNat 0 ∧ s.io.size.toNat ≤ t.io.buf.array ∧
        (if Config.params.poolCapacity < s.io.size.toNat then
            t.io.buf.array = s.io.size.toNat ∧ t.pool = s.pool
          else (t.io.buf.array ∈ s.pool ∧ s.pool.Perm (t.io.buf.array :: t.pool)) ∨
            (t.io.buf.array = Config.params.poolCapacity ∧ t.pool = s.pool ∧
              ∀ a ∈ s.pool, a < s.io.size.toNat))
      else t = s.fatalEntry .fail ∧ t.errCause = 0x12 ∧ t.io = s.io ∧ t.pool = s.pool) ∧
    (∃ t, exec .poolRelease s = .next t ∧ t = (s.setIo { s.io with buf := Buffer.blank }).setPool t.pool ∧
      if s.io.buf.array = Config.params.poolCapacity ∧ s.pool.length < Config.params.poolMax
        then t.pool = s.io.buf.array :: s.pool else t.pool = s.pool)

/-! ## Loader -/

/-- `CFG.ENVREC` and `CFG.CUTENV`, the record latched (log 3): on a whole record at the cursor, and on one that the end
of the image cuts, whose missing fields read as 0 with the mark and the cursor at the end: a cut in the header, or
behind some whole segments and maybe a duration. Where a byte below `CFG.len` that it reads has never been written, the
fault of R50 with that address (log 8). -/
def Obligations.EnvelopeRecords : Prop :=
  ∀ (s : State) (w : Byte) (start stop : Word) (segs : List (BitVec 16 × BitVec 16)),
    let cut := fun E : Envelope => Host.Outcome.next (s.truncate.setIo { s.io with env1 := E })
    (segs.length ≤ 255 → s.holds (envelopeBytes w start stop segs) → exec .cfgEnvrec s = .next
      ((s.advance (10 + 4 * segs.length)).setIo { s.io with env1 := envelopeOf w start stop segs })) ∧
    (segs.length ≤ 255 → s.holds (BitVec.ofNat 8 segs.length :: segmentBytes segs) → exec .cfgCutenv s = .next
      ((s.advance (1 + 4 * segs.length)).setIo { s.io with env1 := ⟨.off, 0, 0, segmentsOf segs⟩ })) ∧
    (s.remaining = 0 → exec .cfgEnvrec s = cut ⟨.off, 0, 0, []⟩ ∧ exec .cfgCutenv s = cut ⟨.off, 0, 0, []⟩) ∧
    (s.holds [w] → s.remaining < 5 → exec .cfgEnvrec s = cut ⟨waveformOf w.toNat, 0, 0, []⟩) ∧
    (s.holds (w :: bytes32 start) → s.remaining < 9 → exec .cfgEnvrec s = cut ⟨waveformOf w.toNat, start, 0, []⟩) ∧
    (s.holds (w :: bytes32 start ++ bytes32 stop) → s.remaining < 10 →
      exec .cfgEnvrec s = cut ⟨waveformOf w.toNat, start, stop, []⟩) ∧
    (∀ (n : Byte) (dur : Option (BitVec 16)), segs.length < n.toNat →
      let head := encode (.imgEnvHeader w start stop n)
      let body := segmentBytes segs ++ (dur.elim [] bytes16)
      let left := segmentsOf segs ++ cutSegments (n.toNat - segs.length) dur
      (s.holds (head ++ body) → s.remaining < (head ++ body).length + 2 →
        exec .cfgEnvrec s = cut ⟨waveformOf w.toNat, start, stop, left⟩) ∧
      (s.holds (n :: body) → s.remaining < (n :: body).length + 2 → exec .cfgCutenv s = cut ⟨.off, 0, 0, left⟩)) ∧
    (∀ k : Nat, segs.length ≤ 255 → s.img.read (s.cfg.pos.toNat + k) = none →
      let record := envelopeBytes w start stop segs
      let cutoff := BitVec.ofNat 8 segs.length :: segmentBytes segs
      (k < record.length → record.length ≤ s.remaining → s.holds (record.take k) →
        exec .cfgEnvrec s = .fault (.imgNoValue (s.cfg.pos.toNat + k))) ∧
      (k < cutoff.length → cutoff.length ≤ s.remaining → s.holds (cutoff.take k) →
        exec .cfgCutenv s = .fault (.imgNoValue (s.cfg.pos.toNat + k))))

/-- The rows of the image one by one do what `CFG.ENVREC` does at once (log 4). -/
def Obligations.EnvelopeRowsAgree : Prop :=
  ∀ (s : State) (w : Byte) (start stop : Word) (segs : List (BitVec 16 × BitVec 16)), segs.length ≤ 255 →
    s.holds (envelopeBytes w start stop segs) →
    ∃ t, exec .cfgEnvrec s = .next t ∧
      execAll (.imgEnvHeader w start stop (BitVec.ofNat 8 segs.length)
        :: segs.map fun g => .imgSegment g.1 g.2) s = .next (t.setLdr { s.ldr with left := 0 })

/-- `CFG.OPTPAIR`, the results latched (log 3): absent at the end and at a zero byte, with blank records (log 6), else
two envelope records; and at any other byte the two reads of `CFG.ENVREC` one after the other, whole or cut. -/
def Obligations.OptionalPair : Prop :=
  ∀ s : State,
    (s.remaining = 0 → exec .cfgOptpair s = .next
      (s.setIo { s.io with present := false, env1 := Envelope.blank, env2 := Envelope.blank })) ∧
    (s.holds [0] → exec .cfgOptpair s = .next
      ((s.advance 1).setIo { s.io with present := false, env1 := Envelope.blank, env2 := Envelope.blank })) ∧
    (∀ (w1 w2 : Byte) (start1 stop1 start2 stop2 : Word) (segs1 segs2 : List (BitVec 16 × BitVec 16)),
      w1 ≠ 0 → segs1.length ≤ 255 → segs2.length ≤ 255 →
      s.holds (envelopeBytes w1 start1 stop1 segs1 ++ envelopeBytes w2 start2 stop2 segs2) →
      exec .cfgOptpair s = .next ((s.advance (20 + 4 * (segs1.length + segs2.length))).setIo
        { s.io with present := true, env1 := envelopeOf w1 start1 stop1 segs1
                    env2 := envelopeOf w2 start2 stop2 segs2 })) ∧
    (∀ b, b ≠ 0 → s.holds [b] → exec .cfgOptpair s = andThen (exec .cfgEnvrec s) fun t =>
      andThen (exec .cfgEnvrec t) fun u => .next
        (u.setIo { s.io with present := true, env1 := t.io.env1, env2 := u.io.env1 }))

/-- `CFG.PARTIALS`: at most ten entries; a list shorter than ten ends with an amplitude of 0 in either form, a tenth
entry ends it without one. A list that the end of the image cuts ends there, an entry's missing fields 0, and so does
a smart integer cut after the first of its two bytes (log 14). -/
def Obligations.OscillatorList : Prop :=
  ∀ (s : State) (l : List (Smart × Smart × Smart)) (z : Smart),
    let body := l.flatMap fun e => encodeSmart e.1 ++ encodeSmart e.2.1 ++ encodeSmart e.2.2
    let bytes := if l.length < 10 then body ++ encodeSmart z else body
    let entries := l.map fun e => (⟨BitVec.ofInt 15 (unsignedSmart e.1), BitVec.ofInt 16 (signedSmart e.2.1),
      BitVec.ofInt 15 (unsignedSmart e.2.2)⟩ : Partial)
    (∀ e ∈ l, e.1.isZero = false) →
    (l.length ≤ 10 → z.isZero = true → s.holds bytes →
      exec .cfgPartials s = .next ((s.advance bytes.length).mapVoice s.ldr.slot
        fun V => { V with partials := entries })) ∧
    (∀ (a p : Smart) (rest : List Byte), l.length < 10 → a.isZero = false → cutSmart rest →
      let cut := fun more : List Partial => Host.Outcome.next
        (s.truncate.mapVoice s.ldr.slot fun V => { V with partials := entries ++ more })
      (s.ends (body ++ rest) → exec .cfgPartials s = cut []) ∧
      (s.ends (body ++ encodeSmart a ++ rest) →
        exec .cfgPartials s = cut [⟨BitVec.ofInt 15 (unsignedSmart a), 0, 0⟩]) ∧
      (s.ends (body ++ encodeSmart a ++ encodeSmart p ++ rest) →
        exec .cfgPartials s = cut [⟨BitVec.ofInt 15 (unsignedSmart a), BitVec.ofInt 16 (signedSmart p), 0⟩]))

/-- `CFG.ECHOREC` on a whole record in any of its forms, and on one that the end of the image cuts, whose missing
fields are 0 (a smart integer cut after the first of its two bytes: log 14). -/
def Obligations.EchoRecord : Prop :=
  ∀ (s : State) (delay mix : Smart) (rest : List Byte),
    (s.holds (encode (.imgEcho delay mix)) →
      exec .cfgEchorec s = .next ((s.advance (encode (.imgEcho delay mix)).length).mapVoice s.ldr.slot
        fun V => { V with echoDelay := BitVec.ofInt 15 (unsignedSmart delay)
                          echoMix := BitVec.ofInt 15 (unsignedSmart mix) })) ∧
    (cutSmart rest → s.ends rest → exec .cfgEchorec s = .next
      (s.truncate.mapVoice s.ldr.slot fun V => { V with echoDelay := 0, echoMix := 0 })) ∧
    (cutSmart rest → s.ends (encodeSmart delay ++ rest) → exec .cfgEchorec s = .next
      (s.truncate.mapVoice s.ldr.slot
        fun V => { V with echoDelay := BitVec.ofInt 15 (unsignedSmart delay), echoMix := 0 }))

/-- `CFG.TIMES`: both fields, or what is left of them: a field with too few bytes reads as 0, marks the truncation and
moves the cursor to the end. -/
def Obligations.TimesRecord : Prop :=
  ∀ (s : State) (duration start : BitVec 16),
    (s.holds (encode (.imgTimes duration start)) → exec .cfgTimes s = .next
      ((s.advance 4).mapVoice s.ldr.slot fun V => { V with duration := duration, start := start })) ∧
    (s.holds (bytes16 duration) → s.remaining < 4 → exec .cfgTimes s = .next
      (s.truncate.mapVoice s.ldr.slot fun V => { V with duration := duration, start := 0 })) ∧
    (s.remaining < 2 → exec .cfgTimes s = .next
      (s.truncate.mapVoice s.ldr.slot fun V => { V with duration := 0, start := 0 }))

/-- `CFG.FILTERBODY` on a record with legal pole counts: the fields; the poles, those of endpoint 0 before the flagged
ones of endpoint 1 and in each channel 0 before channel 1; a copy where the mask bit is 0; and the cutoff envelope
exactly when the mask or the gains ask for it. On a whole record the cursor stands behind it; on one that the end of
the image cuts (in the header, behind some poles and maybe a phase, or in the cutoff envelope) the missing fields are
0, the truncation is marked and the cursor stands at the end. -/
def Obligations.FilterRecord : Prop :=
  ∀ (s : State) (c0 c1 : BitVec 4) (g h : BitVec 16) (m : Byte) (x : PoleAt → Pole)
    (segs : List (BitVec 16 × BitVec 16)),
    let below := fun c : BitVec 4 => ([0, 1, 2, 3] : List (Fin 4)).filter fun p => decide (p.val < c.toNat)
    let order : List PoleAt := (below c0).map (fun p => ⟨false, false, p⟩) ++ (below c1).map (fun p => ⟨false, true, p⟩)
      ++ ((below c0).filter fun p => m.getLsbD p.val).map (fun p => ⟨true, false, p⟩)
      ++ ((below c1).filter fun p => m.getLsbD (4 + p.val)).map (fun p => ⟨true, true, p⟩)
    let poleBytes := fun l : List PoleAt => l.flatMap fun k => encode (.imgPole (x k).phase (x k).magnitude)
    let head := encode (.imgFilterHeader c0 c1 g h m)
    let cutoff := if m ≠ 0 ∨ g ≠ h then BitVec.ofNat 8 segs.length :: segmentBytes segs else []
    let bytes := head ++ poleBytes order ++ cutoff
    let zero := fun _ : PoleAt => (⟨0, 0⟩ : Pole)
    let reads := fun (c0 c1 : BitVec 4) (g h : BitVec 16) (m : Byte) (x : PoleAt → Pole) (E : List Segment)
        (t : State) =>
      ∃ F : Filter, exec .cfgFilterbody s = .next (t.mapVoice s.ldr.slot
          fun V => { V with filterPresent := true, filter := F }) ∧
        F.ff.count = c0 ∧ F.fb.count = c1 ∧ F.gain0 = g ∧ F.gain1 = h ∧
        (F.cutoffPresent = true ↔ m ≠ 0 ∨ g ≠ h) ∧
        (F.cutoffPresent = true → F.cutoff = ⟨.off, 0, 0, E⟩) ∧
        ∀ p : Fin 4,
          (p.val < c0.toNat → vget F.ff.first p = x ⟨false, false, p⟩ ∧
            vget F.ff.last p = if m.getLsbD p.val then x ⟨true, false, p⟩ else x ⟨false, false, p⟩) ∧
          (p.val < c1.toNat → vget F.fb.first p = x ⟨false, true, p⟩ ∧
            vget F.fb.last p = if m.getLsbD (4 + p.val) then x ⟨true, true, p⟩ else x ⟨false, true, p⟩)
    c0.toNat ≤ 4 → c1.toNat ≤ 4 → segs.length ≤ 255 →
    (s.holds bytes → reads c0 c1 g h m x (segmentsOf segs) (s.advance bytes.length)) ∧
    (s.remaining = 0 → reads 0 0 0 0 0 zero [] s.truncate) ∧
    (s.holds [c0 ++ c1] → s.remaining < 3 → reads c0 c1 0 0 0 zero [] s.truncate) ∧
    (s.holds ((c0 ++ c1) :: bytes16 g) → s.remaining < 5 → reads c0 c1 g 0 0 zero [] s.truncate) ∧
    (s.holds ((c0 ++ c1) :: bytes16 g ++ bytes16 h) → s.remaining < 6 → reads c0 c1 g h 0 zero [] s.truncate) ∧
    (∀ (j : Nat) (phase : Option (BitVec 16)), j < order.length →
      let body := head ++ poleBytes (order.take j) ++ phase.elim [] bytes16
      let y := fun k => if k ∈ order.take j then x k else if order[j]? = some k then ⟨phase.getD 0, 0⟩ else ⟨0, 0⟩
      s.holds body → s.remaining < body.length + 2 → reads c0 c1 g h m y [] s.truncate) ∧
    (m ≠ 0 ∨ g ≠ h →
      (s.holds (head ++ poleBytes order) → s.remaining = (head ++ poleBytes order).length →
        reads c0 c1 g h m x [] s.truncate) ∧
      ∀ (n : Byte) (dur : Option (BitVec 16)), segs.length < n.toNat →
        let body := head ++ poleBytes order ++ n :: segmentBytes segs ++ dur.elim [] bytes16
        s.holds body → s.remaining < body.length + 2 →
          reads c0 c1 g h m x (segmentsOf segs ++ cutSegments (n.toNat - segs.length) dur) s.truncate)

/-- A reserved pole count raises `E_RESERVED` on the first byte, in the operation and in the image row: the fatal
entry, with the configuration gone only when `CMD.LOAD` is running (log 20), which leaves blank slots (log 6). -/
def Obligations.ReservedPoleCount : Prop :=
  ∀ (s : State) (b : Byte), 4 < b.toNat / 16 ∨ 4 < b.toNat % 16 →
    let gone := if s.seq.state = .loading then
        { (s.advance 1).cfg with slot := Vector.replicate 10 Slot.blank, loopBegin := 0, loopEnd := 0 }
      else (s.advance 1).cfg
    let after := (((((s.setCfg gone).setErrCause 0x11).setStatus
      { s.status with busy := false, done := false, error := true }).setOutLen 0).setSeq
        { s.seq with state := .error }).setMb (if s.seq.state = .rendering then Buffer.blank else s.mb)
    (s.holds [b] → exec .cfgFilterbody s = .next after) ∧
    (∀ g h m, exec (.imgFilterHeader (BitVec.ofNat 4 (b.toNat / 16)) (BitVec.ofNat 4 b.toNat) g h m) s = .next after)

/-- `CFG.FILTER`: absent at the end, at a zero byte, and where the heuristic says "envelope"; else the filter record,
which a truncation discards with the warning `E_FILTER_DISCARD`; a reserved count ends in the record's own entry. An
absent or discarded filter is the blank record (log 6). -/
def Obligations.FilterOrNot : Prop :=
  ∀ (s : State) (b : Byte),
    let absent := fun t : State => t.mapVoice s.ldr.slot
      fun V => { V with filterPresent := false, filter := Filter.blank }
    (s.remaining = 0 → exec .cfgFilter s = .next (absent s)) ∧
    (s.holds [0] → exec .cfgFilter s = .next (absent (s.advance 1))) ∧
    (s.holds [b] → b ≠ 0 → exec .cfgLooksenv s = .next (s.setIo { s.io with looksEnv := true }) →
      exec .cfgFilter s = .next (absent s)) ∧
    (s.holds [b] → b ≠ 0 → exec .cfgLooksenv s = .next (s.setIo { s.io with looksEnv := false }) →
      b.toNat / 16 ≤ 4 → b.toNat % 16 ≤ 4 →
      exec .cfgFilter s = andThen (exec .cfgFilterbody s) fun t => .next
        (if t.cfg.trunc then
          ((absent t).setWarn (BitVec.ofNat 16 (min (t.warnCount.toNat + 1) 65535)) (t.warnMask ||| 2)).setStatus
            { t.status with warn := true }
        else t)) ∧
    (s.holds [b] → 4 < b.toNat / 16 ∨ 4 < b.toNat % 16 → exec .cfgFilter s = exec .cfgFilterbody s)

/-- `CFG.LOOKSENV`: the bounds of the heuristic, on ten bytes at the cursor; false with fewer, and false for a first
byte outside 1 to 4 however many follow. It consumes nothing. Where a byte below `CFG.len` that it reads has never been
written, the fault of R50 with that address (log 8). -/
def Obligations.LooksLikeEnvelope : Prop :=
  ∀ s : State,
    (∀ b w0 w1 w2 w3 x1 x2 x3 x4 n : Byte, s.holds [b, w0, w1, w2, w3, x1, x2, x3, x4, n] →
      exec .cfgLooksenv s = .next
        (s.setIo { s.io with looksEnv := looksLikeEnvelope b (be32 w0 w1 w2 w3) n })) ∧
    (s.remaining = 0 → exec .cfgLooksenv s = .next (s.setIo { s.io with looksEnv := false })) ∧
    (∀ b, s.holds [b] → s.remaining < 10 ∨ b = 0 ∨ 4 < b.toNat →
      exec .cfgLooksenv s = .next (s.setIo { s.io with looksEnv := false })) ∧
    (0 < s.remaining → s.img.read s.cfg.pos.toNat = none →
      exec .cfgLooksenv s = .fault (.imgNoValue s.cfg.pos.toNat)) ∧
    (∀ (b : Byte) (bs : List Byte), 1 ≤ b.toNat → b.toNat ≤ 4 → 10 ≤ s.remaining → s.holds (b :: bs) →
      (bs.length < 4 → s.img.read (s.cfg.pos.toNat + 1 + bs.length) = none →
        exec .cfgLooksenv s = .fault (.imgNoValue (s.cfg.pos.toNat + 1 + bs.length))) ∧
      (∀ w : Word, bs = bytes32 w → w.toInt.natAbs ≤ 10000000 → s.img.read (s.cfg.pos.toNat + 9) = none →
        exec .cfgLooksenv s = .fault (.imgNoValue (s.cfg.pos.toNat + 9))))

/-- `CFG.LOOPREC`: the loop region where four bytes remain, else `(0, 0)` with nothing consumed and nothing marked. -/
def Obligations.LoopRecord : Prop :=
  ∀ (s : State) (first last : BitVec 16),
    (s.holds (encode (.imgLoop first last)) → exec .cfgLooprec s = .next
      (s.setCfg { s.cfg with loopBegin := first, loopEnd := last, pos := s.cfg.pos + 4 })) ∧
    (s.remaining < 4 → exec .cfgLooprec s = .next (s.setCfg { s.cfg with loopBegin := 0, loopEnd := 0 }))

/-- `CFG.SLOT`: an empty slot, which is the blank one (log 6), at a zero byte, and at the end, where it marks the
truncation; else the slot is valid and `CFG.VOICE` follows with the byte not consumed. -/
def Obligations.SlotRecord : Prop :=
  ∀ (s : State) (b : Byte),
    (s.remaining = 0 → exec .cfgSlot s = .next
      ((s.setCfg { s.cfg with trunc := true }).setSlot s.ldr.slot Slot.blank)) ∧
    (s.holds [0] → exec .cfgSlot s = .next ((s.advance 1).setSlot s.ldr.slot Slot.blank)) ∧
    (s.holds [b] → b ≠ 0 → exec .cfgSlot s =
      exec .cfgVoice (s.setSlot s.ldr.slot ⟨true, s.voiceOf s.ldr.slot⟩))

/-- `CFG.VOICE` reads back every voice that the writer writes and an image can carry: all nine records in order, and
the cursor just past them. -/
def Obligations.VoiceRoundTrip : Prop :=
  ∀ (s : State) (V : Voice) (bytes : List Byte), V.carried = true → writeVoice V = .ok bytes → s.holds bytes →
    s.cfg.trunc = false →
    exec .cfgVoice s = .next ((s.advance bytes.length).setSlot s.ldr.slot ⟨s.isValid s.ldr.slot, V⟩)

/-- `CFG.NORMALISE`: the synthetic segment for each envelope of a voice that has none and whose start and end differ,
and nothing else. -/
def Obligations.Normalise : Prop :=
  ∀ s : State,
    let V := s.voiceOf s.ldr.slot
    let mend := fun E : Envelope =>
      if E.segs = [] ∧ E.start ≠ E.stop then { E with segs := [⟨V.duration, E.stop⟩] } else E
    let pair := fun p : EnvPair => if p.present then ⟨true, mend p.first, mend p.second⟩ else p
    exec .cfgNormalise s = .next (s.mapVoice s.ldr.slot fun _ =>
      { V with frequency := mend V.frequency, amplitude := mend V.amplitude, pitchLfo := pair V.pitchLfo
               amplitudeLfo := pair V.amplitudeLfo, gate := pair V.gate })

/-- `CFG.LOAD` over a written image completes whatever the bytes are; unless it ends in `E_RESERVED` the
configuration it leaves is legal, with the registers of the renderer untouched; and no byte that names a reserved
count, no such end. The empty image gives ten empty slots, no loop and one `E_TRUNC`. -/
def Obligations.LoadCompletes : Prop :=
  ∀ s : State, s.written 0 →
    ∃ t, exec .cfgLoad s = .next t ∧
      ((t.errCause = 0x11 ∧ t.seq.state = .error ∧ t.status.error = true ∧ t.outLen = 0) ∨
        (t.cfg.legal = true ∧
          t = ((s.setCfg { t.cfg with len := s.cfg.len, loopCount := s.cfg.loopCount }).setWarn t.warnCount
            t.warnMask).setStatus { s.status with warn := t.status.warn } ∧
          (t.status.warn = true ↔ t.warnCount ≠ 0) ∧ (t.cfg.trunc = true ↔ t.warnMask.getLsbD 0 = true))) ∧
      (s.nibblesLegal → t.cfg.legal = true ∧ t.errCause = s.errCause ∧ t.seq = s.seq) ∧
      (s.cfg.len = 0 → t.errCause = s.errCause ∧ (∀ v, t.isValid v = false) ∧ t.cfg.loopBegin = 0 ∧
        t.cfg.loopEnd = 0 ∧ t.cfg.pos = 0 ∧ t.warnCount = 1 ∧ t.warnMask = 1)

/-! ## Commands -/

/-- `CMD.LOAD` where it is accepted: it ends in `IDLE`, not busy and not done, with a legal configuration, or in
`ERROR` with `E_RESERVED` and no configuration (empty slots and a loop region 0, 0: log 6); the output, the image and
the working registers stay, except that the fatal entry clears the output length and that both sample buffers, which
hold no value from the start of a command, are no buffer (log 6). -/
def Obligations.CommandLoad : Prop :=
  ∀ s : State, s.acceptsWork = true → s.written 0 →
    ∃ t, exec .cmdLoad s = .next t ∧
      t = (((((((s.setCfg { t.cfg with len := s.cfg.len, loopCount := s.cfg.loopCount }).setWarn t.warnCount
        t.warnMask).setStatus t.status).setSeq { s.seq with state := t.seq.state }).setErrCause t.errCause).setOutLen
          t.outLen).setVb Buffer.blank).setMb Buffer.blank ∧
      t.status.busy = false ∧ t.status.done = false ∧
      ((t.seq.state = .idle ∧ t.status.error = s.status.error ∧ t.errCause = s.errCause ∧ t.outLen = s.outLen ∧
          t.cfg.legal = true) ∨
        (t.seq.state = .error ∧ t.status.error = true ∧ t.errCause = 0x11 ∧ t.outLen = 0 ∧
          (∀ v, t.isValid v = false) ∧ t.cfg.loopBegin = 0 ∧ t.cfg.loopEnd = 0)) ∧
      (s.nibblesLegal → t.seq.state = .idle)

/-- Reading back what the writer wrote: `CMD.LOAD` of a written patch gives that patch with its envelopes normalised,
no warning, and the cursor at the end. -/
def Obligations.PatchRoundTrip : Prop :=
  ∀ (s : State) (c : Cfg) (bytes : List Byte), c.carried = true → writePatch c = .ok bytes →
    s.acceptsWork = true → s.cfg.len.toNat = bytes.length → (∀ k < bytes.length, s.img.read k = bytes[k]?) →
    ∃ t, exec .cmdLoad s = .next t ∧ t.seq.state = .idle ∧ t.status = { s.status with warn := false, done := false } ∧
      t.warnCount = 0 ∧ t.warnMask = 0 ∧
      t.cfg = { slot := c.slot.map fun x => if x.valid then ⟨true, x.voice.normalise⟩ else x
                loopBegin := c.loopBegin, loopEnd := c.loopEnd, loopCount := s.cfg.loopCount
                pos := s.cfg.len, len := s.cfg.len, trunc := false }

/-- `CMD.RENDER` where it is accepted: a configuration that breaks the list of R154 in a valid slot (a partial of
amplitude 0, more than ten partials, a pole count above 4, an envelope without segments whose start and end differ)
raises `E_RESERVED`; an output too long for the platform, or a mix or voice buffer that it cannot supply, raises `E_FAIL`
(log 16, log 17); and any other ends in `DONE` with the output length; a fatal entry leaves no mix buffer, an empty patch none either, and no render leaves a voice
buffer (log 6); the configuration, the image and the warnings are as before in every case. -/
def Obligations.CommandRender : Prop :=
  ∀ s : State,
    let sound := fun E : Envelope => E.segs = [] → E.start = E.stop
    let pair := fun p : EnvPair => p.present = true → sound p.first ∧ sound p.second
    (s.cfg.legal = true ↔ ∀ v, s.isValid v = true →
      let V := s.voiceOf v
      sound V.frequency ∧ sound V.amplitude ∧ pair V.pitchLfo ∧ pair V.amplitudeLfo ∧ pair V.gate ∧
        (∀ p ∈ V.partials, p.amplitude ≠ 0) ∧ V.partials.length ≤ 10 ∧
        (V.filterPresent = true → V.filter.ff.count.toNat ≤ 4 ∧ V.filter.fb.count.toNat ≤ 4 ∧
          (V.filter.cutoffPresent = true → sound V.filter.cutoff))) ∧
    (s.acceptsWork = true →
      let L := mixLengths s.cfg
      let total := L.single.toNat + (s.cfg.loopEnd.toNat - s.cfg.loopBegin.toNat) * (L.reps.toNat - 1)
      ∃ t, exec .cmdRender s = .next t ∧
        t.cfg = s.cfg ∧ t.img = s.img ∧ t.warnCount = s.warnCount ∧ t.warnMask = s.warnMask ∧ t.cmd = s.cmd ∧
        t.pending = s.pending ∧ t.io = s.io ∧ t.ldr = s.ldr ∧ t.status.busy = false ∧
        t.status.warn = s.status.warn ∧ t.vb = Buffer.blank ∧
        if s.cfg.legal = false then
          t.errCause = 0x11 ∧ t.seq.state = .error ∧ t.status.error = true ∧ t.status.done = false ∧
            t.outLen = 0 ∧ t.mb = Buffer.blank
        else if tenIndices.all (fun v => !s.isValid v) then
          t = ((((s.setOutLen 0).setSeq { s.seq with state := .done }).setStatus
            { s.status with busy := false, done := true }).setVb Buffer.blank).setMb Buffer.blank
        else if outFits Config.params total = true ∧ Config.params.supplies total = true ∧
            (∀ v, s.isValid v = true → (s.voiceOf v).supplied Config.params = true) then
          t.seq.state = .done ∧ t.status.done = true ∧ t.status.error = s.status.error ∧
            t.errCause = s.errCause ∧ t.outLen.toNat = total ∧ t.mb.words.length = total
        else
          t.errCause = 0x12 ∧ t.seq.state = .error ∧ t.status.error = true ∧ t.status.done = false ∧
            t.outLen = 0 ∧ t.mb = Buffer.blank)

/-- Every word of a finished output is in the 16-bit range, for any parameters, any configuration, any state of the
working registers and any content of the pool; the instruction is the case of this implementation's parameters. -/
def Obligations.OutputClipped : Prop :=
  (∀ s : State, exec .cmdRender s = finish (cmdRender Config.params s)) ∧
  ∀ (P : Params) (s t : State), s.acceptsWork = true → finish (cmdRender P s) = .next t → t.seq.state = .done →
    ∀ i, i < t.outLen.toNat → ∃ x, t.mb.read i = some x ∧ inRange16 x

/-- A render depends on nothing but the configuration, the parameters and the tables: not on working registers, not on
what either buffer held, not on the pool, not on the image. Whether a buffer is supplied depends on its size alone
(log 17). The instruction is the case of this implementation's
parameters. -/
def Obligations.RenderDependsOnConfiguration : Prop :=
  (∀ s : State, exec .cmdRender s = finish (cmdRender Config.params s)) ∧
  ∀ (P : Params) (s u : State), s.acceptsWork = true → u.acceptsWork = true → s.cfg.slot = u.cfg.slot →
    s.cfg.loopBegin = u.cfg.loopBegin → s.cfg.loopEnd = u.cfg.loopEnd → s.cfg.loopCount = u.cfg.loopCount →
    ∃ t w, finish (cmdRender P s) = .next t ∧ finish (cmdRender P u) = .next w ∧
      t.seq.state = w.seq.state ∧ t.outLen = w.outLen ∧ t.status.done = w.status.done ∧
      (t.status.done = true → ∀ i, i < t.outLen.toNat → t.mb.read i = w.mb.read i)

/-- `CMD.RESET` where it is accepted, and every command where it is not: refused, it changes nothing. A host write to
`CMD` is accepted exactly for a code 0x01 to 0x03 in the states of that command, while the block is not busy and no
accepted command waits, and any other changes nothing. From the moment one is accepted until its step (log 24), while
the block is busy, and outside IDLE, DONE and ERROR, every host write is refused. -/
def Obligations.CommandResetAndRefused : Prop :=
  ∀ s : State,
    (s.acceptsReset = true → ∃ t, exec .cmdReset s = .next t ∧ t = State.reset.setPool s.pool ∧
      t.seq.state = .idle ∧ t.status = ⟨false, false, false, false⟩ ∧ t.errCause = 0 ∧ t.outLen = 0 ∧
      (∀ v, t.isValid v = false) ∧ t.cfg.loopCount = 1) ∧
    (s.acceptsReset = false → exec .cmdReset s = .next s) ∧
    (s.acceptsWork = false → exec .cmdLoad s = .next s ∧ exec .cmdRender s = .next s) ∧
    (s.seq.state = .error → s.acceptsWork = false ∧ (s.status.busy = false → s.acceptsReset = true)) ∧
    (s.status.busy = true → s.acceptsWork = false ∧ s.acceptsReset = false) ∧
    (∀ code : Byte,
      let taken := s.status.busy = false ∧ s.pending = none ∧
        ((code = 0x01 ∨ code = 0x02) ∧ (s.seq.state = .idle ∨ s.seq.state = .done) ∨
          code = 0x03 ∧ (s.seq.state = .idle ∨ s.seq.state = .done ∨ s.seq.state = .error))
      (taken → s.hostCommand code = (s.setCmd code).setPending (some .operation)) ∧
      (¬ taken → s.hostCommand code = s)) ∧
    (s.seq.state = .loading ∨ s.seq.state = .rendering →
      (∀ w, s.hostWrite w = s) ∧ ∀ bytes, s.hostImage bytes = s) ∧
    (s.status.busy = true ∨ s.pending ≠ none → s.hostStatus.busy = true ∧
      (∀ code, s.hostCommand code = s) ∧ (∀ w, s.hostWrite w = s) ∧ ∀ bytes, s.hostImage bytes = s)

/-! ## The rows of the image by themselves -/

/-- The rows of waveform ids, slots, envelope records and pairs: what each consumes and fills (log 4; blank records:
log 6; `ldr.left` stops at 0: log 22); a waveform byte from 5 on is Off. A step at a place where the image cuts the row
(R63) is the row with its missing fields 0, ending at the end of the image with the mark, and at a slot or a pair the
operation's own answer to an empty image. -/
def Obligations.RecordRows : Prop :=
  ∀ (s : State) (v w n : Byte) (start stop : Word) (dur peak : BitVec 16),
    let took := fun x : Waveform => (s.advance 1).setIo { s.io with env1 := { s.io.env1 with waveform := x } }
    exec .wfOff s = .next (took .off) ∧ exec .wfSquare s = .next (took .square) ∧
    exec .wfSine s = .next (took .sine) ∧ exec .wfSaw s = .next (took .saw) ∧
    exec .wfNoise s = .next (took .noise) ∧
    (5 ≤ w.toNat → exec (.wfReservedAsOff w) s = .next (took .off)) ∧
    exec .imgSlotEmpty s = .next ((s.advance 1).setSlot s.ldr.slot Slot.blank) ∧
    exec (.imgSlotVoice v) s = .next (s.setSlot s.ldr.slot ⟨true, s.voiceOf s.ldr.slot⟩) ∧
    exec (.imgEnvHeader w start stop n) s = .next (((s.advance 10).setIo
      { s.io with env1 := ⟨waveformOf w.toNat, start, stop, []⟩ }).setLdr { s.ldr with left := n }) ∧
    exec (.imgSegment dur peak) s = .next (((s.advance 4).setIo
      { s.io with env1 := { s.io.env1 with segs := s.io.env1.segs ++ [⟨dur, BitVec.ofNat 32 peak.toNat⟩] } }).setLdr
        { s.ldr with left := BitVec.ofNat 8 (s.ldr.left.toNat - 1) }) ∧
    exec .imgPairAbsent s = .next ((s.advance 1).setIo
      { s.io with present := false, env1 := Envelope.blank, env2 := Envelope.blank }) ∧
    exec (.imgPairPresent v) s = .next (s.setIo { s.io with present := true }) ∧
    exec (.imgCutoffEnv n) s = .next (((s.advance 1).setIo { s.io with env1 := ⟨.off, 0, 0, []⟩ }).setLdr
      { s.ldr with left := n }) ∧
    (s.pending = some .waveform → s.remaining = 0 → step s = exec .wfOff (s.cutBefore 1)) ∧
    (s.pending = some .slot → s.remaining = 0 → step s = exec .cfgSlot (s.setPending none)) ∧
    (s.pending = some .pair → s.remaining = 0 → step s = exec .cfgOptpair (s.setPending none)) ∧
    (s.pending = some .cutoff → s.remaining = 0 → step s = exec (.imgCutoffEnv 0) (s.cutBefore 1)) ∧
    (s.pending = some .segment →
      (s.remaining < 2 → step s = exec (.imgSegment 0 0) (s.cutBefore 4)) ∧
      (s.holds (bytes16 dur) → s.remaining < 4 → step s = exec (.imgSegment dur 0) (s.cutBefore 4))) ∧
    (s.pending = some .envHeader →
      (s.remaining = 0 → step s = exec (.imgEnvHeader 0 0 0 0) (s.cutBefore 10)) ∧
      (s.holds [w] → s.remaining < 5 → step s = exec (.imgEnvHeader w 0 0 0) (s.cutBefore 10)) ∧
      (s.holds (w :: bytes32 start) → s.remaining < 9 → step s = exec (.imgEnvHeader w start 0 0) (s.cutBefore 10)) ∧
      (s.holds (w :: bytes32 start ++ bytes32 stop) → s.remaining < 10 →
        step s = exec (.imgEnvHeader w start stop 0) (s.cutBefore 10)))

/-- The rows of fields: smart integers (latched), partials (appended to the list the slot holds, none after a tenth:
log 22), echo, times, loop region. A step at a place where the image cuts the row (R63; a smart integer cut after the
first of its two bytes: log 14) reads the missing fields as 0, as the operation of the record does. -/
def Obligations.FieldRows : Prop :=
  ∀ (s : State) (v7 : BitVec 7) (v15 : BitVec 15) (a p d : Smart) (x y : BitVec 16),
    let v := s.ldr.slot
    let V := s.voiceOf v
    exec (.usmart1 v7) s = .next ((s.advance 1).setIo { s.io with smart := BitVec.ofNat 32 v7.toNat }) ∧
    exec (.usmart2 v15) s = .next ((s.advance 2).setIo { s.io with smart := BitVec.ofNat 32 v15.toNat }) ∧
    exec (.ssmart1 v7) s = .next ((s.advance 1).setIo { s.io with smart := BitVec.ofInt 32 (v7.toNat - 64) }) ∧
    exec (.ssmart2 v15) s = .next ((s.advance 2).setIo { s.io with smart := BitVec.ofInt 32 (v15.toNat - 16384) }) ∧
    (V.partials.length < 10 → exec (.imgPartial a p d) s = .next
      ((s.advance ((encodeSmart a).length + (encodeSmart p).length + (encodeSmart d).length)).mapVoice v
        fun V => { V with partials := V.partials ++ [⟨BitVec.ofInt 15 (unsignedSmart a),
          BitVec.ofInt 16 (signedSmart p), BitVec.ofInt 15 (unsignedSmart d)⟩] })) ∧
    (10 ≤ V.partials.length → exec (.imgPartial a p d) s = .next s) ∧
    exec (.imgPartialEnd a) s = .next (s.advance (encodeSmart a).length) ∧
    exec (.imgEcho a d) s = .next ((s.advance ((encodeSmart a).length + (encodeSmart d).length)).mapVoice v
      fun V => { V with echoDelay := BitVec.ofInt 15 (unsignedSmart a)
                        echoMix := BitVec.ofInt 15 (unsignedSmart d) }) ∧
    exec (.imgTimes x y) s = .next ((s.advance 4).mapVoice v fun V => { V with duration := x, start := y }) ∧
    exec (.imgLoop x y) s = .next
      (s.setCfg { s.cfg with loopBegin := x, loopEnd := y, pos := s.cfg.pos + 4 }) ∧
    (s.pending = some .times → s.remaining < 4 → step s = exec .cfgTimes (s.setPending none)) ∧
    (s.pending = some .loop → s.remaining < 4 → step s = exec .cfgLooprec (s.setPending none)) ∧
    (∀ rest, cutSmart rest →
      let t := (s.setPending none).truncate
      let more := fun e : Partial => Host.Outcome.next (t.mapVoice v fun V => { V with partials := V.partials ++ [e] })
      (s.pending = some .usmart ∨ s.pending = some .ssmart → s.ends rest →
        step s = .next (t.setIo { s.io with smart := 0 })) ∧
      (s.pending = some .echo → s.ends rest ∨ s.ends (encodeSmart d ++ rest) →
        step s = exec .cfgEchorec (s.setPending none)) ∧
      (s.pending = some .oscillator → s.ends rest ∨ s.ends (encodeSmart a ++ rest) ∧ a.isZero = false ∨
          s.ends (encodeSmart a ++ encodeSmart p ++ rest) ∧ a.isZero = false →
        10 ≤ V.partials.length → step s = .next (s.setPending none)) ∧
      (s.pending = some .oscillator → V.partials.length < 10 →
        (s.ends rest → step s = .next t) ∧
        (a.isZero = false → s.ends (encodeSmart a ++ rest) →
          step s = more ⟨BitVec.ofInt 15 (unsignedSmart a), 0, 0⟩) ∧
        (a.isZero = false → s.ends (encodeSmart a ++ encodeSmart p ++ rest) →
          step s = more ⟨BitVec.ofInt 15 (unsignedSmart a), BitVec.ofInt 16 (signedSmart p), 0⟩)))

/-- The rows of a filter record: absent, which leaves the blank record (log 6); the header with legal counts, over a
blank record (log 6), with both present bits at once (log 38); and each pole of the plan in turn, which changes its own register, and the register of the other
endpoint where the mask bit is 0, and no other field of the record. Without a plan a pole is not stored (log 22). A
step at a place where the image cuts the row (R63) is the row with its missing fields 0, ending at the end of the image
with the mark; a reserved count raises its exception all the same; and no row discards the filter (log 22). -/
def Obligations.FilterRows : Prop :=
  ∀ (s : State) (c0 c1 : BitVec 4) (g h f a : BitVec 16) (m : Byte),
    let v := s.ldr.slot
    let pole := fun (F : Filter) (feedback last : Bool) (p : Fin 4) =>
      let c := if feedback then F.fb else F.ff
      vget (if last then c.last else c.first) p
    exec .imgFilterAbsent s = .next ((s.advance 1).mapVoice v
      fun V => { V with filterPresent := false, filter := Filter.blank }) ∧
    (c0.toNat ≤ 4 → c1.toNat ≤ 4 → exec (.imgFilterHeader c0 c1 g h m) s = .next
      (((s.advance 6).mapVoice v fun V => { V with
        filterPresent := true
        filter := { Filter.blank with
          ff := { Channel.blank with count := c0 }, fb := { Channel.blank with count := c1 }
          gain0 := g, gain1 := h, cutoffPresent := decide (m ≠ 0 ∨ g ≠ h) } }).setLdr
            { s.ldr with mask := m, plan := polePlan c0 c1 m })) ∧
    (s.ldr.plan = [] → exec (.imgPole f a) s = .next (s.advance 4)) ∧
    (∀ k rest, s.ldr.plan = k :: rest → ∃ G : Filter, exec (.imgPole f a) s = .next
      (((s.advance 4).mapVoice v fun V => { V with filter := G }).setLdr { s.ldr with plan := rest }) ∧
      G = { (s.voiceOf v).filter with
        ff := { (s.voiceOf v).filter.ff with first := G.ff.first, last := G.ff.last }
        fb := { (s.voiceOf v).filter.fb with first := G.fb.first, last := G.fb.last } } ∧
      ∀ feedback last p, pole G feedback last p =
        if feedback = k.feedback ∧ p = k.p ∧
            (last = k.last ∨ last = true ∧ maskBit s.ldr.mask k.feedback k.p = false)
        then ⟨f, a⟩ else pole (s.voiceOf v).filter feedback last p) ∧
    (s.pending = some .pole →
      (s.remaining < 2 → step s = exec (.imgPole 0 0) (s.cutBefore 4)) ∧
      (s.holds (bytes16 f) → s.remaining < 4 → step s = exec (.imgPole f 0) (s.cutBefore 4))) ∧
    (s.pending = some .filter →
      (s.remaining = 0 → step s = exec .cfgFilter (s.setPending none)) ∧
      (∀ b : Byte, s.holds [b] → s.remaining < 6 → 4 < b.toNat / 16 ∨ 4 < b.toNat % 16 →
        step s = exec .cfgFilterbody (s.setPending none)) ∧
      (c0.toNat ≤ 4 → c1.toNat ≤ 4 → c0 ≠ 0 ∨ c1 ≠ 0 →
        (s.holds [c0 ++ c1] → s.remaining < 3 → step s = exec (.imgFilterHeader c0 c1 0 0 0) (s.cutBefore 6)) ∧
        (s.holds ((c0 ++ c1) :: bytes16 g) → s.remaining < 5 →
          step s = exec (.imgFilterHeader c0 c1 g 0 0) (s.cutBefore 6)) ∧
        (s.holds ((c0 ++ c1) :: bytes16 g ++ bytes16 h) → s.remaining < 6 →
          step s = exec (.imgFilterHeader c0 c1 g h 0) (s.cutBefore 6))))

/-! ## The machine as a whole -/

/-- What reset leaves in every register the spec gives a value, and what a render straight after it gives. -/
def Obligations.ResetState : Prop :=
  let s := State.reset
  s.seq.state = .idle ∧ s.status = ⟨false, false, false, false⟩ ∧ s.errCause = 0 ∧ s.warnCount = 0 ∧
  s.warnMask = 0 ∧ s.outLen = 0 ∧ (∀ v, s.isValid v = false) ∧ s.cfg.loopBegin = 0 ∧ s.cfg.loopEnd = 0 ∧
  s.cfg.loopCount = 1 ∧ s.cfg.pos = 0 ∧ s.cfg.len = 0 ∧ s.cfg.trunc = false ∧
  ∃ t, exec .cmdRender s = .next t ∧ t.outLen = 0 ∧ t.status.done = true

/-- The invariant holds after reset. -/
def Obligations.InvariantAtReset : Prop := State.reset.Inv

/-- Every step from every state that meets the invariant leads to a state that meets it: the image canonical, the
status bits and `ERR.cause` in agreement with `SEQ.state`, the warnings in agreement with their count, every slot well
kept, the output of a block that does not rest in IDLE inside the mix buffer. -/
def Obligations.InvariantKept : Prop := ∀ s t : State, s.Inv → step s = .next t → t.Inv

/-- Who writes what, over all instructions: only `CMD.RESET` changes the image; `SEQ.state` changes only by a command
or by the entry of a fatal exception, `E_RESERVED` or `E_FAIL`; and an operation of the render changes no
configuration register. -/
def Obligations.WhoWritesWhat : Prop :=
  ∀ (i : Instr) (s t : State), exec i s = .next t →
    (i ≠ .cmdReset → t.img = s.img) ∧
    (i ≠ .cmdLoad → i ≠ .cmdRender → i ≠ .cmdReset →
      t.seq.state = s.seq.state ∨
        (t.seq.state = .error ∧ t.status.error = true ∧ (t.errCause = 0x11 ∨ t.errCause = 0x12))) ∧
    (i ∈ [Instr.envReset, .envEval, .genOff, .genSquare, .genSine, .genSaw, .genNoise, .lfoVib, .lfoTrem, .oscPartial,
        .oscSample, .voiceSetup, .voiceSynth, .gateInit, .gateStep, .echoApply, .voiceClip, .voiceRender, .fltCoef,
        .fltStep, .fltApply, .mixLen, .mixAcc, .mixLoop, .mixClip, .mixRender, .poolAcquire, .poolRelease] →
      s.seq.state ≠ .loading → t.cfg = s.cfg ∧ t.warnCount = s.warnCount ∧ t.warnMask = s.warnMask)
end

