-- ==== Sys2Proof/Laws/State.lean ====
section
/-! SUPPORT. One lemma per field per update of the state: no later proof unfolds a record update. -/

namespace Sys2Proof.Machine

/-! ### `setSeq` -/

@[simp] theorem State.setSeq_seq (s : State) (x : Seq) : (s.setSeq x).seq = x := rfl
@[simp] theorem State.setSeq_cmd (s : State) (x : Seq) : (s.setSeq x).cmd = s.cmd := rfl
@[simp] theorem State.setSeq_pending (s : State) (x : Seq) : (s.setSeq x).pending = s.pending := rfl
@[simp] theorem State.setSeq_status (s : State) (x : Seq) : (s.setSeq x).status = s.status := rfl
@[simp] theorem State.setSeq_errCause (s : State) (x : Seq) : (s.setSeq x).errCause = s.errCause := rfl
@[simp] theorem State.setSeq_warnCount (s : State) (x : Seq) : (s.setSeq x).warnCount = s.warnCount := rfl
@[simp] theorem State.setSeq_warnMask (s : State) (x : Seq) : (s.setSeq x).warnMask = s.warnMask := rfl
@[simp] theorem State.setSeq_outLen (s : State) (x : Seq) : (s.setSeq x).outLen = s.outLen := rfl
@[simp] theorem State.setSeq_cfg (s : State) (x : Seq) : (s.setSeq x).cfg = s.cfg := rfl
@[simp] theorem State.setSeq_env (s : State) (x : Seq) : (s.setSeq x).env = s.env := rfl
@[simp] theorem State.setSeq_osc (s : State) (x : Seq) : (s.setSeq x).osc = s.osc := rfl
@[simp] theorem State.setSeq_gate (s : State) (x : Seq) : (s.setSeq x).gate = s.gate := rfl
@[simp] theorem State.setSeq_flt (s : State) (x : Seq) : (s.setSeq x).flt = s.flt := rfl
@[simp] theorem State.setSeq_mix (s : State) (x : Seq) : (s.setSeq x).mix = s.mix := rfl
@[simp] theorem State.setSeq_vs (s : State) (x : Seq) : (s.setSeq x).vs = s.vs := rfl
@[simp] theorem State.setSeq_vb (s : State) (x : Seq) : (s.setSeq x).vb = s.vb := rfl
@[simp] theorem State.setSeq_mb (s : State) (x : Seq) : (s.setSeq x).mb = s.mb := rfl
@[simp] theorem State.setSeq_img (s : State) (x : Seq) : (s.setSeq x).img = s.img := rfl
@[simp] theorem State.setSeq_pool (s : State) (x : Seq) : (s.setSeq x).pool = s.pool := rfl
@[simp] theorem State.setSeq_io (s : State) (x : Seq) : (s.setSeq x).io = s.io := rfl
@[simp] theorem State.setSeq_ldr (s : State) (x : Seq) : (s.setSeq x).ldr = s.ldr := rfl

/-! ### `setCmd` -/

@[simp] theorem State.setCmd_seq (s : State) (x : Byte) : (s.setCmd x).seq = s.seq := rfl
@[simp] theorem State.setCmd_cmd (s : State) (x : Byte) : (s.setCmd x).cmd = x := rfl
@[simp] theorem State.setCmd_pending (s : State) (x : Byte) : (s.setCmd x).pending = s.pending := rfl
@[simp] theorem State.setCmd_status (s : State) (x : Byte) : (s.setCmd x).status = s.status := rfl
@[simp] theorem State.setCmd_errCause (s : State) (x : Byte) : (s.setCmd x).errCause = s.errCause := rfl
@[simp] theorem State.setCmd_warnCount (s : State) (x : Byte) : (s.setCmd x).warnCount = s.warnCount := rfl
@[simp] theorem State.setCmd_warnMask (s : State) (x : Byte) : (s.setCmd x).warnMask = s.warnMask := rfl
@[simp] theorem State.setCmd_outLen (s : State) (x : Byte) : (s.setCmd x).outLen = s.outLen := rfl
@[simp] theorem State.setCmd_cfg (s : State) (x : Byte) : (s.setCmd x).cfg = s.cfg := rfl
@[simp] theorem State.setCmd_env (s : State) (x : Byte) : (s.setCmd x).env = s.env := rfl
@[simp] theorem State.setCmd_osc (s : State) (x : Byte) : (s.setCmd x).osc = s.osc := rfl
@[simp] theorem State.setCmd_gate (s : State) (x : Byte) : (s.setCmd x).gate = s.gate := rfl
@[simp] theorem State.setCmd_flt (s : State) (x : Byte) : (s.setCmd x).flt = s.flt := rfl
@[simp] theorem State.setCmd_mix (s : State) (x : Byte) : (s.setCmd x).mix = s.mix := rfl
@[simp] theorem State.setCmd_vs (s : State) (x : Byte) : (s.setCmd x).vs = s.vs := rfl
@[simp] theorem State.setCmd_vb (s : State) (x : Byte) : (s.setCmd x).vb = s.vb := rfl
@[simp] theorem State.setCmd_mb (s : State) (x : Byte) : (s.setCmd x).mb = s.mb := rfl
@[simp] theorem State.setCmd_img (s : State) (x : Byte) : (s.setCmd x).img = s.img := rfl
@[simp] theorem State.setCmd_pool (s : State) (x : Byte) : (s.setCmd x).pool = s.pool := rfl
@[simp] theorem State.setCmd_io (s : State) (x : Byte) : (s.setCmd x).io = s.io := rfl
@[simp] theorem State.setCmd_ldr (s : State) (x : Byte) : (s.setCmd x).ldr = s.ldr := rfl

/-! ### `setPending` -/

@[simp] theorem State.setPending_seq (s : State) (x : Option Place) : (s.setPending x).seq = s.seq := rfl
@[simp] theorem State.setPending_cmd (s : State) (x : Option Place) : (s.setPending x).cmd = s.cmd := rfl
@[simp] theorem State.setPending_pending (s : State) (x : Option Place) : (s.setPending x).pending = x := rfl
@[simp] theorem State.setPending_status (s : State) (x : Option Place) : (s.setPending x).status = s.status := rfl
@[simp] theorem State.setPending_errCause (s : State) (x : Option Place) : (s.setPending x).errCause = s.errCause := rfl
@[simp] theorem State.setPending_warnCount (s : State) (x : Option Place) : (s.setPending x).warnCount = s.warnCount := rfl
@[simp] theorem State.setPending_warnMask (s : State) (x : Option Place) : (s.setPending x).warnMask = s.warnMask := rfl
@[simp] theorem State.setPending_outLen (s : State) (x : Option Place) : (s.setPending x).outLen = s.outLen := rfl
@[simp] theorem State.setPending_cfg (s : State) (x : Option Place) : (s.setPending x).cfg = s.cfg := rfl
@[simp] theorem State.setPending_env (s : State) (x : Option Place) : (s.setPending x).env = s.env := rfl
@[simp] theorem State.setPending_osc (s : State) (x : Option Place) : (s.setPending x).osc = s.osc := rfl
@[simp] theorem State.setPending_gate (s : State) (x : Option Place) : (s.setPending x).gate = s.gate := rfl
@[simp] theorem State.setPending_flt (s : State) (x : Option Place) : (s.setPending x).flt = s.flt := rfl
@[simp] theorem State.setPending_mix (s : State) (x : Option Place) : (s.setPending x).mix = s.mix := rfl
@[simp] theorem State.setPending_vs (s : State) (x : Option Place) : (s.setPending x).vs = s.vs := rfl
@[simp] theorem State.setPending_vb (s : State) (x : Option Place) : (s.setPending x).vb = s.vb := rfl
@[simp] theorem State.setPending_mb (s : State) (x : Option Place) : (s.setPending x).mb = s.mb := rfl
@[simp] theorem State.setPending_img (s : State) (x : Option Place) : (s.setPending x).img = s.img := rfl
@[simp] theorem State.setPending_pool (s : State) (x : Option Place) : (s.setPending x).pool = s.pool := rfl
@[simp] theorem State.setPending_io (s : State) (x : Option Place) : (s.setPending x).io = s.io := rfl
@[simp] theorem State.setPending_ldr (s : State) (x : Option Place) : (s.setPending x).ldr = s.ldr := rfl

/-! ### `setStatus` -/

@[simp] theorem State.setStatus_seq (s : State) (x : Status) : (s.setStatus x).seq = s.seq := rfl
@[simp] theorem State.setStatus_cmd (s : State) (x : Status) : (s.setStatus x).cmd = s.cmd := rfl
@[simp] theorem State.setStatus_pending (s : State) (x : Status) : (s.setStatus x).pending = s.pending := rfl
@[simp] theorem State.setStatus_status (s : State) (x : Status) : (s.setStatus x).status = x := rfl
@[simp] theorem State.setStatus_errCause (s : State) (x : Status) : (s.setStatus x).errCause = s.errCause := rfl
@[simp] theorem State.setStatus_warnCount (s : State) (x : Status) : (s.setStatus x).warnCount = s.warnCount := rfl
@[simp] theorem State.setStatus_warnMask (s : State) (x : Status) : (s.setStatus x).warnMask = s.warnMask := rfl
@[simp] theorem State.setStatus_outLen (s : State) (x : Status) : (s.setStatus x).outLen = s.outLen := rfl
@[simp] theorem State.setStatus_cfg (s : State) (x : Status) : (s.setStatus x).cfg = s.cfg := rfl
@[simp] theorem State.setStatus_env (s : State) (x : Status) : (s.setStatus x).env = s.env := rfl
@[simp] theorem State.setStatus_osc (s : State) (x : Status) : (s.setStatus x).osc = s.osc := rfl
@[simp] theorem State.setStatus_gate (s : State) (x : Status) : (s.setStatus x).gate = s.gate := rfl
@[simp] theorem State.setStatus_flt (s : State) (x : Status) : (s.setStatus x).flt = s.flt := rfl
@[simp] theorem State.setStatus_mix (s : State) (x : Status) : (s.setStatus x).mix = s.mix := rfl
@[simp] theorem State.setStatus_vs (s : State) (x : Status) : (s.setStatus x).vs = s.vs := rfl
@[simp] theorem State.setStatus_vb (s : State) (x : Status) : (s.setStatus x).vb = s.vb := rfl
@[simp] theorem State.setStatus_mb (s : State) (x : Status) : (s.setStatus x).mb = s.mb := rfl
@[simp] theorem State.setStatus_img (s : State) (x : Status) : (s.setStatus x).img = s.img := rfl
@[simp] theorem State.setStatus_pool (s : State) (x : Status) : (s.setStatus x).pool = s.pool := rfl
@[simp] theorem State.setStatus_io (s : State) (x : Status) : (s.setStatus x).io = s.io := rfl
@[simp] theorem State.setStatus_ldr (s : State) (x : Status) : (s.setStatus x).ldr = s.ldr := rfl

/-! ### `setErrCause` -/

@[simp] theorem State.setErrCause_seq (s : State) (x : Byte) : (s.setErrCause x).seq = s.seq := rfl
@[simp] theorem State.setErrCause_cmd (s : State) (x : Byte) : (s.setErrCause x).cmd = s.cmd := rfl
@[simp] theorem State.setErrCause_pending (s : State) (x : Byte) : (s.setErrCause x).pending = s.pending := rfl
@[simp] theorem State.setErrCause_status (s : State) (x : Byte) : (s.setErrCause x).status = s.status := rfl
@[simp] theorem State.setErrCause_errCause (s : State) (x : Byte) : (s.setErrCause x).errCause = x := rfl
@[simp] theorem State.setErrCause_warnCount (s : State) (x : Byte) : (s.setErrCause x).warnCount = s.warnCount := rfl
@[simp] theorem State.setErrCause_warnMask (s : State) (x : Byte) : (s.setErrCause x).warnMask = s.warnMask := rfl
@[simp] theorem State.setErrCause_outLen (s : State) (x : Byte) : (s.setErrCause x).outLen = s.outLen := rfl
@[simp] theorem State.setErrCause_cfg (s : State) (x : Byte) : (s.setErrCause x).cfg = s.cfg := rfl
@[simp] theorem State.setErrCause_env (s : State) (x : Byte) : (s.setErrCause x).env = s.env := rfl
@[simp] theorem State.setErrCause_osc (s : State) (x : Byte) : (s.setErrCause x).osc = s.osc := rfl
@[simp] theorem State.setErrCause_gate (s : State) (x : Byte) : (s.setErrCause x).gate = s.gate := rfl
@[simp] theorem State.setErrCause_flt (s : State) (x : Byte) : (s.setErrCause x).flt = s.flt := rfl
@[simp] theorem State.setErrCause_mix (s : State) (x : Byte) : (s.setErrCause x).mix = s.mix := rfl
@[simp] theorem State.setErrCause_vs (s : State) (x : Byte) : (s.setErrCause x).vs = s.vs := rfl
@[simp] theorem State.setErrCause_vb (s : State) (x : Byte) : (s.setErrCause x).vb = s.vb := rfl
@[simp] theorem State.setErrCause_mb (s : State) (x : Byte) : (s.setErrCause x).mb = s.mb := rfl
@[simp] theorem State.setErrCause_img (s : State) (x : Byte) : (s.setErrCause x).img = s.img := rfl
@[simp] theorem State.setErrCause_pool (s : State) (x : Byte) : (s.setErrCause x).pool = s.pool := rfl
@[simp] theorem State.setErrCause_io (s : State) (x : Byte) : (s.setErrCause x).io = s.io := rfl
@[simp] theorem State.setErrCause_ldr (s : State) (x : Byte) : (s.setErrCause x).ldr = s.ldr := rfl

/-! ### `setOutLen` -/

@[simp] theorem State.setOutLen_seq (s : State) (x : Word) : (s.setOutLen x).seq = s.seq := rfl
@[simp] theorem State.setOutLen_cmd (s : State) (x : Word) : (s.setOutLen x).cmd = s.cmd := rfl
@[simp] theorem State.setOutLen_pending (s : State) (x : Word) : (s.setOutLen x).pending = s.pending := rfl
@[simp] theorem State.setOutLen_status (s : State) (x : Word) : (s.setOutLen x).status = s.status := rfl
@[simp] theorem State.setOutLen_errCause (s : State) (x : Word) : (s.setOutLen x).errCause = s.errCause := rfl
@[simp] theorem State.setOutLen_warnCount (s : State) (x : Word) : (s.setOutLen x).warnCount = s.warnCount := rfl
@[simp] theorem State.setOutLen_warnMask (s : State) (x : Word) : (s.setOutLen x).warnMask = s.warnMask := rfl
@[simp] theorem State.setOutLen_outLen (s : State) (x : Word) : (s.setOutLen x).outLen = x := rfl
@[simp] theorem State.setOutLen_cfg (s : State) (x : Word) : (s.setOutLen x).cfg = s.cfg := rfl
@[simp] theorem State.setOutLen_env (s : State) (x : Word) : (s.setOutLen x).env = s.env := rfl
@[simp] theorem State.setOutLen_osc (s : State) (x : Word) : (s.setOutLen x).osc = s.osc := rfl
@[simp] theorem State.setOutLen_gate (s : State) (x : Word) : (s.setOutLen x).gate = s.gate := rfl
@[simp] theorem State.setOutLen_flt (s : State) (x : Word) : (s.setOutLen x).flt = s.flt := rfl
@[simp] theorem State.setOutLen_mix (s : State) (x : Word) : (s.setOutLen x).mix = s.mix := rfl
@[simp] theorem State.setOutLen_vs (s : State) (x : Word) : (s.setOutLen x).vs = s.vs := rfl
@[simp] theorem State.setOutLen_vb (s : State) (x : Word) : (s.setOutLen x).vb = s.vb := rfl
@[simp] theorem State.setOutLen_mb (s : State) (x : Word) : (s.setOutLen x).mb = s.mb := rfl
@[simp] theorem State.setOutLen_img (s : State) (x : Word) : (s.setOutLen x).img = s.img := rfl
@[simp] theorem State.setOutLen_pool (s : State) (x : Word) : (s.setOutLen x).pool = s.pool := rfl
@[simp] theorem State.setOutLen_io (s : State) (x : Word) : (s.setOutLen x).io = s.io := rfl
@[simp] theorem State.setOutLen_ldr (s : State) (x : Word) : (s.setOutLen x).ldr = s.ldr := rfl

/-! ### `setCfg` -/

@[simp] theorem State.setCfg_seq (s : State) (x : Cfg) : (s.setCfg x).seq = s.seq := rfl
@[simp] theorem State.setCfg_cmd (s : State) (x : Cfg) : (s.setCfg x).cmd = s.cmd := rfl
@[simp] theorem State.setCfg_pending (s : State) (x : Cfg) : (s.setCfg x).pending = s.pending := rfl
@[simp] theorem State.setCfg_status (s : State) (x : Cfg) : (s.setCfg x).status = s.status := rfl
@[simp] theorem State.setCfg_errCause (s : State) (x : Cfg) : (s.setCfg x).errCause = s.errCause := rfl
@[simp] theorem State.setCfg_warnCount (s : State) (x : Cfg) : (s.setCfg x).warnCount = s.warnCount := rfl
@[simp] theorem State.setCfg_warnMask (s : State) (x : Cfg) : (s.setCfg x).warnMask = s.warnMask := rfl
@[simp] theorem State.setCfg_outLen (s : State) (x : Cfg) : (s.setCfg x).outLen = s.outLen := rfl
@[simp] theorem State.setCfg_cfg (s : State) (x : Cfg) : (s.setCfg x).cfg = x := rfl
@[simp] theorem State.setCfg_env (s : State) (x : Cfg) : (s.setCfg x).env = s.env := rfl
@[simp] theorem State.setCfg_osc (s : State) (x : Cfg) : (s.setCfg x).osc = s.osc := rfl
@[simp] theorem State.setCfg_gate (s : State) (x : Cfg) : (s.setCfg x).gate = s.gate := rfl
@[simp] theorem State.setCfg_flt (s : State) (x : Cfg) : (s.setCfg x).flt = s.flt := rfl
@[simp] theorem State.setCfg_mix (s : State) (x : Cfg) : (s.setCfg x).mix = s.mix := rfl
@[simp] theorem State.setCfg_vs (s : State) (x : Cfg) : (s.setCfg x).vs = s.vs := rfl
@[simp] theorem State.setCfg_vb (s : State) (x : Cfg) : (s.setCfg x).vb = s.vb := rfl
@[simp] theorem State.setCfg_mb (s : State) (x : Cfg) : (s.setCfg x).mb = s.mb := rfl
@[simp] theorem State.setCfg_img (s : State) (x : Cfg) : (s.setCfg x).img = s.img := rfl
@[simp] theorem State.setCfg_pool (s : State) (x : Cfg) : (s.setCfg x).pool = s.pool := rfl
@[simp] theorem State.setCfg_io (s : State) (x : Cfg) : (s.setCfg x).io = s.io := rfl
@[simp] theorem State.setCfg_ldr (s : State) (x : Cfg) : (s.setCfg x).ldr = s.ldr := rfl

/-! ### `setEnv` -/

@[simp] theorem State.setEnv_seq (s : State) (x : EnvBank) : (s.setEnv x).seq = s.seq := rfl
@[simp] theorem State.setEnv_cmd (s : State) (x : EnvBank) : (s.setEnv x).cmd = s.cmd := rfl
@[simp] theorem State.setEnv_pending (s : State) (x : EnvBank) : (s.setEnv x).pending = s.pending := rfl
@[simp] theorem State.setEnv_status (s : State) (x : EnvBank) : (s.setEnv x).status = s.status := rfl
@[simp] theorem State.setEnv_errCause (s : State) (x : EnvBank) : (s.setEnv x).errCause = s.errCause := rfl
@[simp] theorem State.setEnv_warnCount (s : State) (x : EnvBank) : (s.setEnv x).warnCount = s.warnCount := rfl
@[simp] theorem State.setEnv_warnMask (s : State) (x : EnvBank) : (s.setEnv x).warnMask = s.warnMask := rfl
@[simp] theorem State.setEnv_outLen (s : State) (x : EnvBank) : (s.setEnv x).outLen = s.outLen := rfl
@[simp] theorem State.setEnv_cfg (s : State) (x : EnvBank) : (s.setEnv x).cfg = s.cfg := rfl
@[simp] theorem State.setEnv_env (s : State) (x : EnvBank) : (s.setEnv x).env = x := rfl
@[simp] theorem State.setEnv_osc (s : State) (x : EnvBank) : (s.setEnv x).osc = s.osc := rfl
@[simp] theorem State.setEnv_gate (s : State) (x : EnvBank) : (s.setEnv x).gate = s.gate := rfl
@[simp] theorem State.setEnv_flt (s : State) (x : EnvBank) : (s.setEnv x).flt = s.flt := rfl
@[simp] theorem State.setEnv_mix (s : State) (x : EnvBank) : (s.setEnv x).mix = s.mix := rfl
@[simp] theorem State.setEnv_vs (s : State) (x : EnvBank) : (s.setEnv x).vs = s.vs := rfl
@[simp] theorem State.setEnv_vb (s : State) (x : EnvBank) : (s.setEnv x).vb = s.vb := rfl
@[simp] theorem State.setEnv_mb (s : State) (x : EnvBank) : (s.setEnv x).mb = s.mb := rfl
@[simp] theorem State.setEnv_img (s : State) (x : EnvBank) : (s.setEnv x).img = s.img := rfl
@[simp] theorem State.setEnv_pool (s : State) (x : EnvBank) : (s.setEnv x).pool = s.pool := rfl
@[simp] theorem State.setEnv_io (s : State) (x : EnvBank) : (s.setEnv x).io = s.io := rfl
@[simp] theorem State.setEnv_ldr (s : State) (x : EnvBank) : (s.setEnv x).ldr = s.ldr := rfl

/-! ### `setOsc` -/

@[simp] theorem State.setOsc_seq (s : State) (x : Osc) : (s.setOsc x).seq = s.seq := rfl
@[simp] theorem State.setOsc_cmd (s : State) (x : Osc) : (s.setOsc x).cmd = s.cmd := rfl
@[simp] theorem State.setOsc_pending (s : State) (x : Osc) : (s.setOsc x).pending = s.pending := rfl
@[simp] theorem State.setOsc_status (s : State) (x : Osc) : (s.setOsc x).status = s.status := rfl
@[simp] theorem State.setOsc_errCause (s : State) (x : Osc) : (s.setOsc x).errCause = s.errCause := rfl
@[simp] theorem State.setOsc_warnCount (s : State) (x : Osc) : (s.setOsc x).warnCount = s.warnCount := rfl
@[simp] theorem State.setOsc_warnMask (s : State) (x : Osc) : (s.setOsc x).warnMask = s.warnMask := rfl
@[simp] theorem State.setOsc_outLen (s : State) (x : Osc) : (s.setOsc x).outLen = s.outLen := rfl
@[simp] theorem State.setOsc_cfg (s : State) (x : Osc) : (s.setOsc x).cfg = s.cfg := rfl
@[simp] theorem State.setOsc_env (s : State) (x : Osc) : (s.setOsc x).env = s.env := rfl
@[simp] theorem State.setOsc_osc (s : State) (x : Osc) : (s.setOsc x).osc = x := rfl
@[simp] theorem State.setOsc_gate (s : State) (x : Osc) : (s.setOsc x).gate = s.gate := rfl
@[simp] theorem State.setOsc_flt (s : State) (x : Osc) : (s.setOsc x).flt = s.flt := rfl
@[simp] theorem State.setOsc_mix (s : State) (x : Osc) : (s.setOsc x).mix = s.mix := rfl
@[simp] theorem State.setOsc_vs (s : State) (x : Osc) : (s.setOsc x).vs = s.vs := rfl
@[simp] theorem State.setOsc_vb (s : State) (x : Osc) : (s.setOsc x).vb = s.vb := rfl
@[simp] theorem State.setOsc_mb (s : State) (x : Osc) : (s.setOsc x).mb = s.mb := rfl
@[simp] theorem State.setOsc_img (s : State) (x : Osc) : (s.setOsc x).img = s.img := rfl
@[simp] theorem State.setOsc_pool (s : State) (x : Osc) : (s.setOsc x).pool = s.pool := rfl
@[simp] theorem State.setOsc_io (s : State) (x : Osc) : (s.setOsc x).io = s.io := rfl
@[simp] theorem State.setOsc_ldr (s : State) (x : Osc) : (s.setOsc x).ldr = s.ldr := rfl

/-! ### `setGate` -/

@[simp] theorem State.setGate_seq (s : State) (x : GateRegs) : (s.setGate x).seq = s.seq := rfl
@[simp] theorem State.setGate_cmd (s : State) (x : GateRegs) : (s.setGate x).cmd = s.cmd := rfl
@[simp] theorem State.setGate_pending (s : State) (x : GateRegs) : (s.setGate x).pending = s.pending := rfl
@[simp] theorem State.setGate_status (s : State) (x : GateRegs) : (s.setGate x).status = s.status := rfl
@[simp] theorem State.setGate_errCause (s : State) (x : GateRegs) : (s.setGate x).errCause = s.errCause := rfl
@[simp] theorem State.setGate_warnCount (s : State) (x : GateRegs) : (s.setGate x).warnCount = s.warnCount := rfl
@[simp] theorem State.setGate_warnMask (s : State) (x : GateRegs) : (s.setGate x).warnMask = s.warnMask := rfl
@[simp] theorem State.setGate_outLen (s : State) (x : GateRegs) : (s.setGate x).outLen = s.outLen := rfl
@[simp] theorem State.setGate_cfg (s : State) (x : GateRegs) : (s.setGate x).cfg = s.cfg := rfl
@[simp] theorem State.setGate_env (s : State) (x : GateRegs) : (s.setGate x).env = s.env := rfl
@[simp] theorem State.setGate_osc (s : State) (x : GateRegs) : (s.setGate x).osc = s.osc := rfl
@[simp] theorem State.setGate_gate (s : State) (x : GateRegs) : (s.setGate x).gate = x := rfl
@[simp] theorem State.setGate_flt (s : State) (x : GateRegs) : (s.setGate x).flt = s.flt := rfl
@[simp] theorem State.setGate_mix (s : State) (x : GateRegs) : (s.setGate x).mix = s.mix := rfl
@[simp] theorem State.setGate_vs (s : State) (x : GateRegs) : (s.setGate x).vs = s.vs := rfl
@[simp] theorem State.setGate_vb (s : State) (x : GateRegs) : (s.setGate x).vb = s.vb := rfl
@[simp] theorem State.setGate_mb (s : State) (x : GateRegs) : (s.setGate x).mb = s.mb := rfl
@[simp] theorem State.setGate_img (s : State) (x : GateRegs) : (s.setGate x).img = s.img := rfl
@[simp] theorem State.setGate_pool (s : State) (x : GateRegs) : (s.setGate x).pool = s.pool := rfl
@[simp] theorem State.setGate_io (s : State) (x : GateRegs) : (s.setGate x).io = s.io := rfl
@[simp] theorem State.setGate_ldr (s : State) (x : GateRegs) : (s.setGate x).ldr = s.ldr := rfl

/-! ### `setFlt` -/

@[simp] theorem State.setFlt_seq (s : State) (x : FltRegs) : (s.setFlt x).seq = s.seq := rfl
@[simp] theorem State.setFlt_cmd (s : State) (x : FltRegs) : (s.setFlt x).cmd = s.cmd := rfl
@[simp] theorem State.setFlt_pending (s : State) (x : FltRegs) : (s.setFlt x).pending = s.pending := rfl
@[simp] theorem State.setFlt_status (s : State) (x : FltRegs) : (s.setFlt x).status = s.status := rfl
@[simp] theorem State.setFlt_errCause (s : State) (x : FltRegs) : (s.setFlt x).errCause = s.errCause := rfl
@[simp] theorem State.setFlt_warnCount (s : State) (x : FltRegs) : (s.setFlt x).warnCount = s.warnCount := rfl
@[simp] theorem State.setFlt_warnMask (s : State) (x : FltRegs) : (s.setFlt x).warnMask = s.warnMask := rfl
@[simp] theorem State.setFlt_outLen (s : State) (x : FltRegs) : (s.setFlt x).outLen = s.outLen := rfl
@[simp] theorem State.setFlt_cfg (s : State) (x : FltRegs) : (s.setFlt x).cfg = s.cfg := rfl
@[simp] theorem State.setFlt_env (s : State) (x : FltRegs) : (s.setFlt x).env = s.env := rfl
@[simp] theorem State.setFlt_osc (s : State) (x : FltRegs) : (s.setFlt x).osc = s.osc := rfl
@[simp] theorem State.setFlt_gate (s : State) (x : FltRegs) : (s.setFlt x).gate = s.gate := rfl
@[simp] theorem State.setFlt_flt (s : State) (x : FltRegs) : (s.setFlt x).flt = x := rfl
@[simp] theorem State.setFlt_mix (s : State) (x : FltRegs) : (s.setFlt x).mix = s.mix := rfl
@[simp] theorem State.setFlt_vs (s : State) (x : FltRegs) : (s.setFlt x).vs = s.vs := rfl
@[simp] theorem State.setFlt_vb (s : State) (x : FltRegs) : (s.setFlt x).vb = s.vb := rfl
@[simp] theorem State.setFlt_mb (s : State) (x : FltRegs) : (s.setFlt x).mb = s.mb := rfl
@[simp] theorem State.setFlt_img (s : State) (x : FltRegs) : (s.setFlt x).img = s.img := rfl
@[simp] theorem State.setFlt_pool (s : State) (x : FltRegs) : (s.setFlt x).pool = s.pool := rfl
@[simp] theorem State.setFlt_io (s : State) (x : FltRegs) : (s.setFlt x).io = s.io := rfl
@[simp] theorem State.setFlt_ldr (s : State) (x : FltRegs) : (s.setFlt x).ldr = s.ldr := rfl

/-! ### `setMix` -/

@[simp] theorem State.setMix_seq (s : State) (x : MixRegs) : (s.setMix x).seq = s.seq := rfl
@[simp] theorem State.setMix_cmd (s : State) (x : MixRegs) : (s.setMix x).cmd = s.cmd := rfl
@[simp] theorem State.setMix_pending (s : State) (x : MixRegs) : (s.setMix x).pending = s.pending := rfl
@[simp] theorem State.setMix_status (s : State) (x : MixRegs) : (s.setMix x).status = s.status := rfl
@[simp] theorem State.setMix_errCause (s : State) (x : MixRegs) : (s.setMix x).errCause = s.errCause := rfl
@[simp] theorem State.setMix_warnCount (s : State) (x : MixRegs) : (s.setMix x).warnCount = s.warnCount := rfl
@[simp] theorem State.setMix_warnMask (s : State) (x : MixRegs) : (s.setMix x).warnMask = s.warnMask := rfl
@[simp] theorem State.setMix_outLen (s : State) (x : MixRegs) : (s.setMix x).outLen = s.outLen := rfl
@[simp] theorem State.setMix_cfg (s : State) (x : MixRegs) : (s.setMix x).cfg = s.cfg := rfl
@[simp] theorem State.setMix_env (s : State) (x : MixRegs) : (s.setMix x).env = s.env := rfl
@[simp] theorem State.setMix_osc (s : State) (x : MixRegs) : (s.setMix x).osc = s.osc := rfl
@[simp] theorem State.setMix_gate (s : State) (x : MixRegs) : (s.setMix x).gate = s.gate := rfl
@[simp] theorem State.setMix_flt (s : State) (x : MixRegs) : (s.setMix x).flt = s.flt := rfl
@[simp] theorem State.setMix_mix (s : State) (x : MixRegs) : (s.setMix x).mix = x := rfl
@[simp] theorem State.setMix_vs (s : State) (x : MixRegs) : (s.setMix x).vs = s.vs := rfl
@[simp] theorem State.setMix_vb (s : State) (x : MixRegs) : (s.setMix x).vb = s.vb := rfl
@[simp] theorem State.setMix_mb (s : State) (x : MixRegs) : (s.setMix x).mb = s.mb := rfl
@[simp] theorem State.setMix_img (s : State) (x : MixRegs) : (s.setMix x).img = s.img := rfl
@[simp] theorem State.setMix_pool (s : State) (x : MixRegs) : (s.setMix x).pool = s.pool := rfl
@[simp] theorem State.setMix_io (s : State) (x : MixRegs) : (s.setMix x).io = s.io := rfl
@[simp] theorem State.setMix_ldr (s : State) (x : MixRegs) : (s.setMix x).ldr = s.ldr := rfl

/-! ### `setVs` -/

@[simp] theorem State.setVs_seq (s : State) (x : VoiceRegs) : (s.setVs x).seq = s.seq := rfl
@[simp] theorem State.setVs_cmd (s : State) (x : VoiceRegs) : (s.setVs x).cmd = s.cmd := rfl
@[simp] theorem State.setVs_pending (s : State) (x : VoiceRegs) : (s.setVs x).pending = s.pending := rfl
@[simp] theorem State.setVs_status (s : State) (x : VoiceRegs) : (s.setVs x).status = s.status := rfl
@[simp] theorem State.setVs_errCause (s : State) (x : VoiceRegs) : (s.setVs x).errCause = s.errCause := rfl
@[simp] theorem State.setVs_warnCount (s : State) (x : VoiceRegs) : (s.setVs x).warnCount = s.warnCount := rfl
@[simp] theorem State.setVs_warnMask (s : State) (x : VoiceRegs) : (s.setVs x).warnMask = s.warnMask := rfl
@[simp] theorem State.setVs_outLen (s : State) (x : VoiceRegs) : (s.setVs x).outLen = s.outLen := rfl
@[simp] theorem State.setVs_cfg (s : State) (x : VoiceRegs) : (s.setVs x).cfg = s.cfg := rfl
@[simp] theorem State.setVs_env (s : State) (x : VoiceRegs) : (s.setVs x).env = s.env := rfl
@[simp] theorem State.setVs_osc (s : State) (x : VoiceRegs) : (s.setVs x).osc = s.osc := rfl
@[simp] theorem State.setVs_gate (s : State) (x : VoiceRegs) : (s.setVs x).gate = s.gate := rfl
@[simp] theorem State.setVs_flt (s : State) (x : VoiceRegs) : (s.setVs x).flt = s.flt := rfl
@[simp] theorem State.setVs_mix (s : State) (x : VoiceRegs) : (s.setVs x).mix = s.mix := rfl
@[simp] theorem State.setVs_vs (s : State) (x : VoiceRegs) : (s.setVs x).vs = x := rfl
@[simp] theorem State.setVs_vb (s : State) (x : VoiceRegs) : (s.setVs x).vb = s.vb := rfl
@[simp] theorem State.setVs_mb (s : State) (x : VoiceRegs) : (s.setVs x).mb = s.mb := rfl
@[simp] theorem State.setVs_img (s : State) (x : VoiceRegs) : (s.setVs x).img = s.img := rfl
@[simp] theorem State.setVs_pool (s : State) (x : VoiceRegs) : (s.setVs x).pool = s.pool := rfl
@[simp] theorem State.setVs_io (s : State) (x : VoiceRegs) : (s.setVs x).io = s.io := rfl
@[simp] theorem State.setVs_ldr (s : State) (x : VoiceRegs) : (s.setVs x).ldr = s.ldr := rfl

/-! ### `setVb` -/

@[simp] theorem State.setVb_seq (s : State) (x : Buffer) : (s.setVb x).seq = s.seq := rfl
@[simp] theorem State.setVb_cmd (s : State) (x : Buffer) : (s.setVb x).cmd = s.cmd := rfl
@[simp] theorem State.setVb_pending (s : State) (x : Buffer) : (s.setVb x).pending = s.pending := rfl
@[simp] theorem State.setVb_status (s : State) (x : Buffer) : (s.setVb x).status = s.status := rfl
@[simp] theorem State.setVb_errCause (s : State) (x : Buffer) : (s.setVb x).errCause = s.errCause := rfl
@[simp] theorem State.setVb_warnCount (s : State) (x : Buffer) : (s.setVb x).warnCount = s.warnCount := rfl
@[simp] theorem State.setVb_warnMask (s : State) (x : Buffer) : (s.setVb x).warnMask = s.warnMask := rfl
@[simp] theorem State.setVb_outLen (s : State) (x : Buffer) : (s.setVb x).outLen = s.outLen := rfl
@[simp] theorem State.setVb_cfg (s : State) (x : Buffer) : (s.setVb x).cfg = s.cfg := rfl
@[simp] theorem State.setVb_env (s : State) (x : Buffer) : (s.setVb x).env = s.env := rfl
@[simp] theorem State.setVb_osc (s : State) (x : Buffer) : (s.setVb x).osc = s.osc := rfl
@[simp] theorem State.setVb_gate (s : State) (x : Buffer) : (s.setVb x).gate = s.gate := rfl
@[simp] theorem State.setVb_flt (s : State) (x : Buffer) : (s.setVb x).flt = s.flt := rfl
@[simp] theorem State.setVb_mix (s : State) (x : Buffer) : (s.setVb x).mix = s.mix := rfl
@[simp] theorem State.setVb_vs (s : State) (x : Buffer) : (s.setVb x).vs = s.vs := rfl
@[simp] theorem State.setVb_vb (s : State) (x : Buffer) : (s.setVb x).vb = x := rfl
@[simp] theorem State.setVb_mb (s : State) (x : Buffer) : (s.setVb x).mb = s.mb := rfl
@[simp] theorem State.setVb_img (s : State) (x : Buffer) : (s.setVb x).img = s.img := rfl
@[simp] theorem State.setVb_pool (s : State) (x : Buffer) : (s.setVb x).pool = s.pool := rfl
@[simp] theorem State.setVb_io (s : State) (x : Buffer) : (s.setVb x).io = s.io := rfl
@[simp] theorem State.setVb_ldr (s : State) (x : Buffer) : (s.setVb x).ldr = s.ldr := rfl

/-! ### `setMb` -/

@[simp] theorem State.setMb_seq (s : State) (x : Buffer) : (s.setMb x).seq = s.seq := rfl
@[simp] theorem State.setMb_cmd (s : State) (x : Buffer) : (s.setMb x).cmd = s.cmd := rfl
@[simp] theorem State.setMb_pending (s : State) (x : Buffer) : (s.setMb x).pending = s.pending := rfl
@[simp] theorem State.setMb_status (s : State) (x : Buffer) : (s.setMb x).status = s.status := rfl
@[simp] theorem State.setMb_errCause (s : State) (x : Buffer) : (s.setMb x).errCause = s.errCause := rfl
@[simp] theorem State.setMb_warnCount (s : State) (x : Buffer) : (s.setMb x).warnCount = s.warnCount := rfl
@[simp] theorem State.setMb_warnMask (s : State) (x : Buffer) : (s.setMb x).warnMask = s.warnMask := rfl
@[simp] theorem State.setMb_outLen (s : State) (x : Buffer) : (s.setMb x).outLen = s.outLen := rfl
@[simp] theorem State.setMb_cfg (s : State) (x : Buffer) : (s.setMb x).cfg = s.cfg := rfl
@[simp] theorem State.setMb_env (s : State) (x : Buffer) : (s.setMb x).env = s.env := rfl
@[simp] theorem State.setMb_osc (s : State) (x : Buffer) : (s.setMb x).osc = s.osc := rfl
@[simp] theorem State.setMb_gate (s : State) (x : Buffer) : (s.setMb x).gate = s.gate := rfl
@[simp] theorem State.setMb_flt (s : State) (x : Buffer) : (s.setMb x).flt = s.flt := rfl
@[simp] theorem State.setMb_mix (s : State) (x : Buffer) : (s.setMb x).mix = s.mix := rfl
@[simp] theorem State.setMb_vs (s : State) (x : Buffer) : (s.setMb x).vs = s.vs := rfl
@[simp] theorem State.setMb_vb (s : State) (x : Buffer) : (s.setMb x).vb = s.vb := rfl
@[simp] theorem State.setMb_mb (s : State) (x : Buffer) : (s.setMb x).mb = x := rfl
@[simp] theorem State.setMb_img (s : State) (x : Buffer) : (s.setMb x).img = s.img := rfl
@[simp] theorem State.setMb_pool (s : State) (x : Buffer) : (s.setMb x).pool = s.pool := rfl
@[simp] theorem State.setMb_io (s : State) (x : Buffer) : (s.setMb x).io = s.io := rfl
@[simp] theorem State.setMb_ldr (s : State) (x : Buffer) : (s.setMb x).ldr = s.ldr := rfl

/-! ### `setImg` -/

@[simp] theorem State.setImg_seq (s : State) (x : Image) : (s.setImg x).seq = s.seq := rfl
@[simp] theorem State.setImg_cmd (s : State) (x : Image) : (s.setImg x).cmd = s.cmd := rfl
@[simp] theorem State.setImg_pending (s : State) (x : Image) : (s.setImg x).pending = s.pending := rfl
@[simp] theorem State.setImg_status (s : State) (x : Image) : (s.setImg x).status = s.status := rfl
@[simp] theorem State.setImg_errCause (s : State) (x : Image) : (s.setImg x).errCause = s.errCause := rfl
@[simp] theorem State.setImg_warnCount (s : State) (x : Image) : (s.setImg x).warnCount = s.warnCount := rfl
@[simp] theorem State.setImg_warnMask (s : State) (x : Image) : (s.setImg x).warnMask = s.warnMask := rfl
@[simp] theorem State.setImg_outLen (s : State) (x : Image) : (s.setImg x).outLen = s.outLen := rfl
@[simp] theorem State.setImg_cfg (s : State) (x : Image) : (s.setImg x).cfg = s.cfg := rfl
@[simp] theorem State.setImg_env (s : State) (x : Image) : (s.setImg x).env = s.env := rfl
@[simp] theorem State.setImg_osc (s : State) (x : Image) : (s.setImg x).osc = s.osc := rfl
@[simp] theorem State.setImg_gate (s : State) (x : Image) : (s.setImg x).gate = s.gate := rfl
@[simp] theorem State.setImg_flt (s : State) (x : Image) : (s.setImg x).flt = s.flt := rfl
@[simp] theorem State.setImg_mix (s : State) (x : Image) : (s.setImg x).mix = s.mix := rfl
@[simp] theorem State.setImg_vs (s : State) (x : Image) : (s.setImg x).vs = s.vs := rfl
@[simp] theorem State.setImg_vb (s : State) (x : Image) : (s.setImg x).vb = s.vb := rfl
@[simp] theorem State.setImg_mb (s : State) (x : Image) : (s.setImg x).mb = s.mb := rfl
@[simp] theorem State.setImg_img (s : State) (x : Image) : (s.setImg x).img = x := rfl
@[simp] theorem State.setImg_pool (s : State) (x : Image) : (s.setImg x).pool = s.pool := rfl
@[simp] theorem State.setImg_io (s : State) (x : Image) : (s.setImg x).io = s.io := rfl
@[simp] theorem State.setImg_ldr (s : State) (x : Image) : (s.setImg x).ldr = s.ldr := rfl

/-! ### `setPool` -/

@[simp] theorem State.setPool_seq (s : State) (x : List Nat) : (s.setPool x).seq = s.seq := rfl
@[simp] theorem State.setPool_cmd (s : State) (x : List Nat) : (s.setPool x).cmd = s.cmd := rfl
@[simp] theorem State.setPool_pending (s : State) (x : List Nat) : (s.setPool x).pending = s.pending := rfl
@[simp] theorem State.setPool_status (s : State) (x : List Nat) : (s.setPool x).status = s.status := rfl
@[simp] theorem State.setPool_errCause (s : State) (x : List Nat) : (s.setPool x).errCause = s.errCause := rfl
@[simp] theorem State.setPool_warnCount (s : State) (x : List Nat) : (s.setPool x).warnCount = s.warnCount := rfl
@[simp] theorem State.setPool_warnMask (s : State) (x : List Nat) : (s.setPool x).warnMask = s.warnMask := rfl
@[simp] theorem State.setPool_outLen (s : State) (x : List Nat) : (s.setPool x).outLen = s.outLen := rfl
@[simp] theorem State.setPool_cfg (s : State) (x : List Nat) : (s.setPool x).cfg = s.cfg := rfl
@[simp] theorem State.setPool_env (s : State) (x : List Nat) : (s.setPool x).env = s.env := rfl
@[simp] theorem State.setPool_osc (s : State) (x : List Nat) : (s.setPool x).osc = s.osc := rfl
@[simp] theorem State.setPool_gate (s : State) (x : List Nat) : (s.setPool x).gate = s.gate := rfl
@[simp] theorem State.setPool_flt (s : State) (x : List Nat) : (s.setPool x).flt = s.flt := rfl
@[simp] theorem State.setPool_mix (s : State) (x : List Nat) : (s.setPool x).mix = s.mix := rfl
@[simp] theorem State.setPool_vs (s : State) (x : List Nat) : (s.setPool x).vs = s.vs := rfl
@[simp] theorem State.setPool_vb (s : State) (x : List Nat) : (s.setPool x).vb = s.vb := rfl
@[simp] theorem State.setPool_mb (s : State) (x : List Nat) : (s.setPool x).mb = s.mb := rfl
@[simp] theorem State.setPool_img (s : State) (x : List Nat) : (s.setPool x).img = s.img := rfl
@[simp] theorem State.setPool_pool (s : State) (x : List Nat) : (s.setPool x).pool = x := rfl
@[simp] theorem State.setPool_io (s : State) (x : List Nat) : (s.setPool x).io = s.io := rfl
@[simp] theorem State.setPool_ldr (s : State) (x : List Nat) : (s.setPool x).ldr = s.ldr := rfl

/-! ### `setIo` -/

@[simp] theorem State.setIo_seq (s : State) (x : Ports) : (s.setIo x).seq = s.seq := rfl
@[simp] theorem State.setIo_cmd (s : State) (x : Ports) : (s.setIo x).cmd = s.cmd := rfl
@[simp] theorem State.setIo_pending (s : State) (x : Ports) : (s.setIo x).pending = s.pending := rfl
@[simp] theorem State.setIo_status (s : State) (x : Ports) : (s.setIo x).status = s.status := rfl
@[simp] theorem State.setIo_errCause (s : State) (x : Ports) : (s.setIo x).errCause = s.errCause := rfl
@[simp] theorem State.setIo_warnCount (s : State) (x : Ports) : (s.setIo x).warnCount = s.warnCount := rfl
@[simp] theorem State.setIo_warnMask (s : State) (x : Ports) : (s.setIo x).warnMask = s.warnMask := rfl
@[simp] theorem State.setIo_outLen (s : State) (x : Ports) : (s.setIo x).outLen = s.outLen := rfl
@[simp] theorem State.setIo_cfg (s : State) (x : Ports) : (s.setIo x).cfg = s.cfg := rfl
@[simp] theorem State.setIo_env (s : State) (x : Ports) : (s.setIo x).env = s.env := rfl
@[simp] theorem State.setIo_osc (s : State) (x : Ports) : (s.setIo x).osc = s.osc := rfl
@[simp] theorem State.setIo_gate (s : State) (x : Ports) : (s.setIo x).gate = s.gate := rfl
@[simp] theorem State.setIo_flt (s : State) (x : Ports) : (s.setIo x).flt = s.flt := rfl
@[simp] theorem State.setIo_mix (s : State) (x : Ports) : (s.setIo x).mix = s.mix := rfl
@[simp] theorem State.setIo_vs (s : State) (x : Ports) : (s.setIo x).vs = s.vs := rfl
@[simp] theorem State.setIo_vb (s : State) (x : Ports) : (s.setIo x).vb = s.vb := rfl
@[simp] theorem State.setIo_mb (s : State) (x : Ports) : (s.setIo x).mb = s.mb := rfl
@[simp] theorem State.setIo_img (s : State) (x : Ports) : (s.setIo x).img = s.img := rfl
@[simp] theorem State.setIo_pool (s : State) (x : Ports) : (s.setIo x).pool = s.pool := rfl
@[simp] theorem State.setIo_io (s : State) (x : Ports) : (s.setIo x).io = x := rfl
@[simp] theorem State.setIo_ldr (s : State) (x : Ports) : (s.setIo x).ldr = s.ldr := rfl

/-! ### `setLdr` -/

@[simp] theorem State.setLdr_seq (s : State) (x : Loader) : (s.setLdr x).seq = s.seq := rfl
@[simp] theorem State.setLdr_cmd (s : State) (x : Loader) : (s.setLdr x).cmd = s.cmd := rfl
@[simp] theorem State.setLdr_pending (s : State) (x : Loader) : (s.setLdr x).pending = s.pending := rfl
@[simp] theorem State.setLdr_status (s : State) (x : Loader) : (s.setLdr x).status = s.status := rfl
@[simp] theorem State.setLdr_errCause (s : State) (x : Loader) : (s.setLdr x).errCause = s.errCause := rfl
@[simp] theorem State.setLdr_warnCount (s : State) (x : Loader) : (s.setLdr x).warnCount = s.warnCount := rfl
@[simp] theorem State.setLdr_warnMask (s : State) (x : Loader) : (s.setLdr x).warnMask = s.warnMask := rfl
@[simp] theorem State.setLdr_outLen (s : State) (x : Loader) : (s.setLdr x).outLen = s.outLen := rfl
@[simp] theorem State.setLdr_cfg (s : State) (x : Loader) : (s.setLdr x).cfg = s.cfg := rfl
@[simp] theorem State.setLdr_env (s : State) (x : Loader) : (s.setLdr x).env = s.env := rfl
@[simp] theorem State.setLdr_osc (s : State) (x : Loader) : (s.setLdr x).osc = s.osc := rfl
@[simp] theorem State.setLdr_gate (s : State) (x : Loader) : (s.setLdr x).gate = s.gate := rfl
@[simp] theorem State.setLdr_flt (s : State) (x : Loader) : (s.setLdr x).flt = s.flt := rfl
@[simp] theorem State.setLdr_mix (s : State) (x : Loader) : (s.setLdr x).mix = s.mix := rfl
@[simp] theorem State.setLdr_vs (s : State) (x : Loader) : (s.setLdr x).vs = s.vs := rfl
@[simp] theorem State.setLdr_vb (s : State) (x : Loader) : (s.setLdr x).vb = s.vb := rfl
@[simp] theorem State.setLdr_mb (s : State) (x : Loader) : (s.setLdr x).mb = s.mb := rfl
@[simp] theorem State.setLdr_img (s : State) (x : Loader) : (s.setLdr x).img = s.img := rfl
@[simp] theorem State.setLdr_pool (s : State) (x : Loader) : (s.setLdr x).pool = s.pool := rfl
@[simp] theorem State.setLdr_io (s : State) (x : Loader) : (s.setLdr x).io = s.io := rfl
@[simp] theorem State.setLdr_ldr (s : State) (x : Loader) : (s.setLdr x).ldr = x := rfl

/-! ### `setWarn` -/

@[simp] theorem State.setWarn_seq (s : State) (c : BitVec 16) (m : Byte) : (s.setWarn c m).seq = s.seq := rfl
@[simp] theorem State.setWarn_cmd (s : State) (c : BitVec 16) (m : Byte) : (s.setWarn c m).cmd = s.cmd := rfl
@[simp] theorem State.setWarn_pending (s : State) (c : BitVec 16) (m : Byte) : (s.setWarn c m).pending = s.pending := rfl
@[simp] theorem State.setWarn_status (s : State) (c : BitVec 16) (m : Byte) : (s.setWarn c m).status = s.status := rfl
@[simp] theorem State.setWarn_errCause (s : State) (c : BitVec 16) (m : Byte) : (s.setWarn c m).errCause = s.errCause := rfl
@[simp] theorem State.setWarn_warnCount (s : State) (c : BitVec 16) (m : Byte) : (s.setWarn c m).warnCount = c := rfl
@[simp] theorem State.setWarn_warnMask (s : State) (c : BitVec 16) (m : Byte) : (s.setWarn c m).warnMask = m := rfl
@[simp] theorem State.setWarn_outLen (s : State) (c : BitVec 16) (m : Byte) : (s.setWarn c m).outLen = s.outLen := rfl
@[simp] theorem State.setWarn_cfg (s : State) (c : BitVec 16) (m : Byte) : (s.setWarn c m).cfg = s.cfg := rfl
@[simp] theorem State.setWarn_env (s : State) (c : BitVec 16) (m : Byte) : (s.setWarn c m).env = s.env := rfl
@[simp] theorem State.setWarn_osc (s : State) (c : BitVec 16) (m : Byte) : (s.setWarn c m).osc = s.osc := rfl
@[simp] theorem State.setWarn_gate (s : State) (c : BitVec 16) (m : Byte) : (s.setWarn c m).gate = s.gate := rfl
@[simp] theorem State.setWarn_flt (s : State) (c : BitVec 16) (m : Byte) : (s.setWarn c m).flt = s.flt := rfl
@[simp] theorem State.setWarn_mix (s : State) (c : BitVec 16) (m : Byte) : (s.setWarn c m).mix = s.mix := rfl
@[simp] theorem State.setWarn_vs (s : State) (c : BitVec 16) (m : Byte) : (s.setWarn c m).vs = s.vs := rfl
@[simp] theorem State.setWarn_vb (s : State) (c : BitVec 16) (m : Byte) : (s.setWarn c m).vb = s.vb := rfl
@[simp] theorem State.setWarn_mb (s : State) (c : BitVec 16) (m : Byte) : (s.setWarn c m).mb = s.mb := rfl
@[simp] theorem State.setWarn_img (s : State) (c : BitVec 16) (m : Byte) : (s.setWarn c m).img = s.img := rfl
@[simp] theorem State.setWarn_pool (s : State) (c : BitVec 16) (m : Byte) : (s.setWarn c m).pool = s.pool := rfl
@[simp] theorem State.setWarn_io (s : State) (c : BitVec 16) (m : Byte) : (s.setWarn c m).io = s.io := rfl
@[simp] theorem State.setWarn_ldr (s : State) (c : BitVec 16) (m : Byte) : (s.setWarn c m).ldr = s.ldr := rfl

/-! ### `atStage` -/

@[simp] theorem State.atStage_seq (s : State) (x : Stage) : (s.atStage x).seq = { s.seq with stage := x } := rfl
@[simp] theorem State.atStage_cmd (s : State) (x : Stage) : (s.atStage x).cmd = s.cmd := rfl
@[simp] theorem State.atStage_pending (s : State) (x : Stage) : (s.atStage x).pending = s.pending := rfl
@[simp] theorem State.atStage_status (s : State) (x : Stage) : (s.atStage x).status = s.status := rfl
@[simp] theorem State.atStage_errCause (s : State) (x : Stage) : (s.atStage x).errCause = s.errCause := rfl
@[simp] theorem State.atStage_warnCount (s : State) (x : Stage) : (s.atStage x).warnCount = s.warnCount := rfl
@[simp] theorem State.atStage_warnMask (s : State) (x : Stage) : (s.atStage x).warnMask = s.warnMask := rfl
@[simp] theorem State.atStage_outLen (s : State) (x : Stage) : (s.atStage x).outLen = s.outLen := rfl
@[simp] theorem State.atStage_cfg (s : State) (x : Stage) : (s.atStage x).cfg = s.cfg := rfl
@[simp] theorem State.atStage_env (s : State) (x : Stage) : (s.atStage x).env = s.env := rfl
@[simp] theorem State.atStage_osc (s : State) (x : Stage) : (s.atStage x).osc = s.osc := rfl
@[simp] theorem State.atStage_gate (s : State) (x : Stage) : (s.atStage x).gate = s.gate := rfl
@[simp] theorem State.atStage_flt (s : State) (x : Stage) : (s.atStage x).flt = s.flt := rfl
@[simp] theorem State.atStage_mix (s : State) (x : Stage) : (s.atStage x).mix = s.mix := rfl
@[simp] theorem State.atStage_vs (s : State) (x : Stage) : (s.atStage x).vs = s.vs := rfl
@[simp] theorem State.atStage_vb (s : State) (x : Stage) : (s.atStage x).vb = s.vb := rfl
@[simp] theorem State.atStage_mb (s : State) (x : Stage) : (s.atStage x).mb = s.mb := rfl
@[simp] theorem State.atStage_img (s : State) (x : Stage) : (s.atStage x).img = s.img := rfl
@[simp] theorem State.atStage_pool (s : State) (x : Stage) : (s.atStage x).pool = s.pool := rfl
@[simp] theorem State.atStage_io (s : State) (x : Stage) : (s.atStage x).io = s.io := rfl
@[simp] theorem State.atStage_ldr (s : State) (x : Stage) : (s.atStage x).ldr = s.ldr := rfl

/-! ### `atN` -/

@[simp] theorem State.atN_seq (s : State) (n : Nat) : (s.atN n).seq = { s.seq with n := BitVec.ofNat 32 n } := rfl
@[simp] theorem State.atN_cmd (s : State) (n : Nat) : (s.atN n).cmd = s.cmd := rfl
@[simp] theorem State.atN_pending (s : State) (n : Nat) : (s.atN n).pending = s.pending := rfl
@[simp] theorem State.atN_status (s : State) (n : Nat) : (s.atN n).status = s.status := rfl
@[simp] theorem State.atN_errCause (s : State) (n : Nat) : (s.atN n).errCause = s.errCause := rfl
@[simp] theorem State.atN_warnCount (s : State) (n : Nat) : (s.atN n).warnCount = s.warnCount := rfl
@[simp] theorem State.atN_warnMask (s : State) (n : Nat) : (s.atN n).warnMask = s.warnMask := rfl
@[simp] theorem State.atN_outLen (s : State) (n : Nat) : (s.atN n).outLen = s.outLen := rfl
@[simp] theorem State.atN_cfg (s : State) (n : Nat) : (s.atN n).cfg = s.cfg := rfl
@[simp] theorem State.atN_env (s : State) (n : Nat) : (s.atN n).env = s.env := rfl
@[simp] theorem State.atN_osc (s : State) (n : Nat) : (s.atN n).osc = s.osc := rfl
@[simp] theorem State.atN_gate (s : State) (n : Nat) : (s.atN n).gate = s.gate := rfl
@[simp] theorem State.atN_flt (s : State) (n : Nat) : (s.atN n).flt = s.flt := rfl
@[simp] theorem State.atN_mix (s : State) (n : Nat) : (s.atN n).mix = s.mix := rfl
@[simp] theorem State.atN_vs (s : State) (n : Nat) : (s.atN n).vs = s.vs := rfl
@[simp] theorem State.atN_vb (s : State) (n : Nat) : (s.atN n).vb = s.vb := rfl
@[simp] theorem State.atN_mb (s : State) (n : Nat) : (s.atN n).mb = s.mb := rfl
@[simp] theorem State.atN_img (s : State) (n : Nat) : (s.atN n).img = s.img := rfl
@[simp] theorem State.atN_pool (s : State) (n : Nat) : (s.atN n).pool = s.pool := rfl
@[simp] theorem State.atN_io (s : State) (n : Nat) : (s.atN n).io = s.io := rfl
@[simp] theorem State.atN_ldr (s : State) (n : Nat) : (s.atN n).ldr = s.ldr := rfl

/-! ### `atI` -/

@[simp] theorem State.atI_seq (s : State) (i : Fin 10) : (s.atI i).seq = { s.seq with i := i } := rfl
@[simp] theorem State.atI_cmd (s : State) (i : Fin 10) : (s.atI i).cmd = s.cmd := rfl
@[simp] theorem State.atI_pending (s : State) (i : Fin 10) : (s.atI i).pending = s.pending := rfl
@[simp] theorem State.atI_status (s : State) (i : Fin 10) : (s.atI i).status = s.status := rfl
@[simp] theorem State.atI_errCause (s : State) (i : Fin 10) : (s.atI i).errCause = s.errCause := rfl
@[simp] theorem State.atI_warnCount (s : State) (i : Fin 10) : (s.atI i).warnCount = s.warnCount := rfl
@[simp] theorem State.atI_warnMask (s : State) (i : Fin 10) : (s.atI i).warnMask = s.warnMask := rfl
@[simp] theorem State.atI_outLen (s : State) (i : Fin 10) : (s.atI i).outLen = s.outLen := rfl
@[simp] theorem State.atI_cfg (s : State) (i : Fin 10) : (s.atI i).cfg = s.cfg := rfl
@[simp] theorem State.atI_env (s : State) (i : Fin 10) : (s.atI i).env = s.env := rfl
@[simp] theorem State.atI_osc (s : State) (i : Fin 10) : (s.atI i).osc = s.osc := rfl
@[simp] theorem State.atI_gate (s : State) (i : Fin 10) : (s.atI i).gate = s.gate := rfl
@[simp] theorem State.atI_flt (s : State) (i : Fin 10) : (s.atI i).flt = s.flt := rfl
@[simp] theorem State.atI_mix (s : State) (i : Fin 10) : (s.atI i).mix = s.mix := rfl
@[simp] theorem State.atI_vs (s : State) (i : Fin 10) : (s.atI i).vs = s.vs := rfl
@[simp] theorem State.atI_vb (s : State) (i : Fin 10) : (s.atI i).vb = s.vb := rfl
@[simp] theorem State.atI_mb (s : State) (i : Fin 10) : (s.atI i).mb = s.mb := rfl
@[simp] theorem State.atI_img (s : State) (i : Fin 10) : (s.atI i).img = s.img := rfl
@[simp] theorem State.atI_pool (s : State) (i : Fin 10) : (s.atI i).pool = s.pool := rfl
@[simp] theorem State.atI_io (s : State) (i : Fin 10) : (s.atI i).io = s.io := rfl
@[simp] theorem State.atI_ldr (s : State) (i : Fin 10) : (s.atI i).ldr = s.ldr := rfl

/-! ### `atVoice` -/

@[simp] theorem State.atVoice_seq (s : State) (v : Fin 10) : (s.atVoice v).seq = { s.seq with voice := v } := rfl
@[simp] theorem State.atVoice_cmd (s : State) (v : Fin 10) : (s.atVoice v).cmd = s.cmd := rfl
@[simp] theorem State.atVoice_pending (s : State) (v : Fin 10) : (s.atVoice v).pending = s.pending := rfl
@[simp] theorem State.atVoice_status (s : State) (v : Fin 10) : (s.atVoice v).status = s.status := rfl
@[simp] theorem State.atVoice_errCause (s : State) (v : Fin 10) : (s.atVoice v).errCause = s.errCause := rfl
@[simp] theorem State.atVoice_warnCount (s : State) (v : Fin 10) : (s.atVoice v).warnCount = s.warnCount := rfl
@[simp] theorem State.atVoice_warnMask (s : State) (v : Fin 10) : (s.atVoice v).warnMask = s.warnMask := rfl
@[simp] theorem State.atVoice_outLen (s : State) (v : Fin 10) : (s.atVoice v).outLen = s.outLen := rfl
@[simp] theorem State.atVoice_cfg (s : State) (v : Fin 10) : (s.atVoice v).cfg = s.cfg := rfl
@[simp] theorem State.atVoice_env (s : State) (v : Fin 10) : (s.atVoice v).env = s.env := rfl
@[simp] theorem State.atVoice_osc (s : State) (v : Fin 10) : (s.atVoice v).osc = s.osc := rfl
@[simp] theorem State.atVoice_gate (s : State) (v : Fin 10) : (s.atVoice v).gate = s.gate := rfl
@[simp] theorem State.atVoice_flt (s : State) (v : Fin 10) : (s.atVoice v).flt = s.flt := rfl
@[simp] theorem State.atVoice_mix (s : State) (v : Fin 10) : (s.atVoice v).mix = s.mix := rfl
@[simp] theorem State.atVoice_vs (s : State) (v : Fin 10) : (s.atVoice v).vs = s.vs := rfl
@[simp] theorem State.atVoice_vb (s : State) (v : Fin 10) : (s.atVoice v).vb = s.vb := rfl
@[simp] theorem State.atVoice_mb (s : State) (v : Fin 10) : (s.atVoice v).mb = s.mb := rfl
@[simp] theorem State.atVoice_img (s : State) (v : Fin 10) : (s.atVoice v).img = s.img := rfl
@[simp] theorem State.atVoice_pool (s : State) (v : Fin 10) : (s.atVoice v).pool = s.pool := rfl
@[simp] theorem State.atVoice_io (s : State) (v : Fin 10) : (s.atVoice v).io = s.io := rfl
@[simp] theorem State.atVoice_ldr (s : State) (v : Fin 10) : (s.atVoice v).ldr = s.ldr := rfl

/-! ### `inState` -/

@[simp] theorem State.inState_seq (s : State) (x : SeqState) : (s.inState x).seq = { s.seq with state := x } := rfl
@[simp] theorem State.inState_cmd (s : State) (x : SeqState) : (s.inState x).cmd = s.cmd := rfl
@[simp] theorem State.inState_pending (s : State) (x : SeqState) : (s.inState x).pending = s.pending := rfl
@[simp] theorem State.inState_status (s : State) (x : SeqState) : (s.inState x).status = s.status := rfl
@[simp] theorem State.inState_errCause (s : State) (x : SeqState) : (s.inState x).errCause = s.errCause := rfl
@[simp] theorem State.inState_warnCount (s : State) (x : SeqState) : (s.inState x).warnCount = s.warnCount := rfl
@[simp] theorem State.inState_warnMask (s : State) (x : SeqState) : (s.inState x).warnMask = s.warnMask := rfl
@[simp] theorem State.inState_outLen (s : State) (x : SeqState) : (s.inState x).outLen = s.outLen := rfl
@[simp] theorem State.inState_cfg (s : State) (x : SeqState) : (s.inState x).cfg = s.cfg := rfl
@[simp] theorem State.inState_env (s : State) (x : SeqState) : (s.inState x).env = s.env := rfl
@[simp] theorem State.inState_osc (s : State) (x : SeqState) : (s.inState x).osc = s.osc := rfl
@[simp] theorem State.inState_gate (s : State) (x : SeqState) : (s.inState x).gate = s.gate := rfl
@[simp] theorem State.inState_flt (s : State) (x : SeqState) : (s.inState x).flt = s.flt := rfl
@[simp] theorem State.inState_mix (s : State) (x : SeqState) : (s.inState x).mix = s.mix := rfl
@[simp] theorem State.inState_vs (s : State) (x : SeqState) : (s.inState x).vs = s.vs := rfl
@[simp] theorem State.inState_vb (s : State) (x : SeqState) : (s.inState x).vb = s.vb := rfl
@[simp] theorem State.inState_mb (s : State) (x : SeqState) : (s.inState x).mb = s.mb := rfl
@[simp] theorem State.inState_img (s : State) (x : SeqState) : (s.inState x).img = s.img := rfl
@[simp] theorem State.inState_pool (s : State) (x : SeqState) : (s.inState x).pool = s.pool := rfl
@[simp] theorem State.inState_io (s : State) (x : SeqState) : (s.inState x).io = s.io := rfl
@[simp] theorem State.inState_ldr (s : State) (x : SeqState) : (s.inState x).ldr = s.ldr := rfl

/-! ### `setSlot` -/

@[simp] theorem State.setSlot_seq (s : State) (v : Fin 10) (x : Slot) : (s.setSlot v x).seq = s.seq := rfl
@[simp] theorem State.setSlot_cmd (s : State) (v : Fin 10) (x : Slot) : (s.setSlot v x).cmd = s.cmd := rfl
@[simp] theorem State.setSlot_pending (s : State) (v : Fin 10) (x : Slot) : (s.setSlot v x).pending = s.pending := rfl
@[simp] theorem State.setSlot_status (s : State) (v : Fin 10) (x : Slot) : (s.setSlot v x).status = s.status := rfl
@[simp] theorem State.setSlot_errCause (s : State) (v : Fin 10) (x : Slot) : (s.setSlot v x).errCause = s.errCause := rfl
@[simp] theorem State.setSlot_warnCount (s : State) (v : Fin 10) (x : Slot) : (s.setSlot v x).warnCount = s.warnCount := rfl
@[simp] theorem State.setSlot_warnMask (s : State) (v : Fin 10) (x : Slot) : (s.setSlot v x).warnMask = s.warnMask := rfl
@[simp] theorem State.setSlot_outLen (s : State) (v : Fin 10) (x : Slot) : (s.setSlot v x).outLen = s.outLen := rfl
@[simp] theorem State.setSlot_cfg (s : State) (v : Fin 10) (x : Slot) :
    (s.setSlot v x).cfg = { s.cfg with slot := vset s.cfg.slot v x } := rfl
@[simp] theorem State.setSlot_env (s : State) (v : Fin 10) (x : Slot) : (s.setSlot v x).env = s.env := rfl
@[simp] theorem State.setSlot_osc (s : State) (v : Fin 10) (x : Slot) : (s.setSlot v x).osc = s.osc := rfl
@[simp] theorem State.setSlot_gate (s : State) (v : Fin 10) (x : Slot) : (s.setSlot v x).gate = s.gate := rfl
@[simp] theorem State.setSlot_flt (s : State) (v : Fin 10) (x : Slot) : (s.setSlot v x).flt = s.flt := rfl
@[simp] theorem State.setSlot_mix (s : State) (v : Fin 10) (x : Slot) : (s.setSlot v x).mix = s.mix := rfl
@[simp] theorem State.setSlot_vs (s : State) (v : Fin 10) (x : Slot) : (s.setSlot v x).vs = s.vs := rfl
@[simp] theorem State.setSlot_vb (s : State) (v : Fin 10) (x : Slot) : (s.setSlot v x).vb = s.vb := rfl
@[simp] theorem State.setSlot_mb (s : State) (v : Fin 10) (x : Slot) : (s.setSlot v x).mb = s.mb := rfl
@[simp] theorem State.setSlot_img (s : State) (v : Fin 10) (x : Slot) : (s.setSlot v x).img = s.img := rfl
@[simp] theorem State.setSlot_pool (s : State) (v : Fin 10) (x : Slot) : (s.setSlot v x).pool = s.pool := rfl
@[simp] theorem State.setSlot_io (s : State) (v : Fin 10) (x : Slot) : (s.setSlot v x).io = s.io := rfl
@[simp] theorem State.setSlot_ldr (s : State) (v : Fin 10) (x : Slot) : (s.setSlot v x).ldr = s.ldr := rfl

/-! ### `mapVoice` -/

@[simp] theorem State.mapVoice_seq (s : State) (v : Fin 10) (f : Voice → Voice) : (s.mapVoice v f).seq = s.seq := rfl
@[simp] theorem State.mapVoice_cmd (s : State) (v : Fin 10) (f : Voice → Voice) : (s.mapVoice v f).cmd = s.cmd := rfl
@[simp] theorem State.mapVoice_pending (s : State) (v : Fin 10) (f : Voice → Voice) : (s.mapVoice v f).pending = s.pending := rfl
@[simp] theorem State.mapVoice_status (s : State) (v : Fin 10) (f : Voice → Voice) : (s.mapVoice v f).status = s.status := rfl
@[simp] theorem State.mapVoice_errCause (s : State) (v : Fin 10) (f : Voice → Voice) : (s.mapVoice v f).errCause = s.errCause := rfl
@[simp] theorem State.mapVoice_warnCount (s : State) (v : Fin 10) (f : Voice → Voice) : (s.mapVoice v f).warnCount = s.warnCount := rfl
@[simp] theorem State.mapVoice_warnMask (s : State) (v : Fin 10) (f : Voice → Voice) : (s.mapVoice v f).warnMask = s.warnMask := rfl
@[simp] theorem State.mapVoice_outLen (s : State) (v : Fin 10) (f : Voice → Voice) : (s.mapVoice v f).outLen = s.outLen := rfl
@[simp] theorem State.mapVoice_cfg (s : State) (v : Fin 10) (f : Voice → Voice) :
    (s.mapVoice v f).cfg = { s.cfg with slot := vset s.cfg.slot v ⟨(vget s.cfg.slot v).valid, f (s.voiceOf v)⟩ } := rfl
@[simp] theorem State.mapVoice_env (s : State) (v : Fin 10) (f : Voice → Voice) : (s.mapVoice v f).env = s.env := rfl
@[simp] theorem State.mapVoice_osc (s : State) (v : Fin 10) (f : Voice → Voice) : (s.mapVoice v f).osc = s.osc := rfl
@[simp] theorem State.mapVoice_gate (s : State) (v : Fin 10) (f : Voice → Voice) : (s.mapVoice v f).gate = s.gate := rfl
@[simp] theorem State.mapVoice_flt (s : State) (v : Fin 10) (f : Voice → Voice) : (s.mapVoice v f).flt = s.flt := rfl
@[simp] theorem State.mapVoice_mix (s : State) (v : Fin 10) (f : Voice → Voice) : (s.mapVoice v f).mix = s.mix := rfl
@[simp] theorem State.mapVoice_vs (s : State) (v : Fin 10) (f : Voice → Voice) : (s.mapVoice v f).vs = s.vs := rfl
@[simp] theorem State.mapVoice_vb (s : State) (v : Fin 10) (f : Voice → Voice) : (s.mapVoice v f).vb = s.vb := rfl
@[simp] theorem State.mapVoice_mb (s : State) (v : Fin 10) (f : Voice → Voice) : (s.mapVoice v f).mb = s.mb := rfl
@[simp] theorem State.mapVoice_img (s : State) (v : Fin 10) (f : Voice → Voice) : (s.mapVoice v f).img = s.img := rfl
@[simp] theorem State.mapVoice_pool (s : State) (v : Fin 10) (f : Voice → Voice) : (s.mapVoice v f).pool = s.pool := rfl
@[simp] theorem State.mapVoice_io (s : State) (v : Fin 10) (f : Voice → Voice) : (s.mapVoice v f).io = s.io := rfl
@[simp] theorem State.mapVoice_ldr (s : State) (v : Fin 10) (f : Voice → Voice) : (s.mapVoice v f).ldr = s.ldr := rfl

/-! ### `advance` -/

@[simp] theorem State.advance_seq (s : State) (n : Nat) : (s.advance n).seq = s.seq := rfl
@[simp] theorem State.advance_cmd (s : State) (n : Nat) : (s.advance n).cmd = s.cmd := rfl
@[simp] theorem State.advance_pending (s : State) (n : Nat) : (s.advance n).pending = s.pending := rfl
@[simp] theorem State.advance_status (s : State) (n : Nat) : (s.advance n).status = s.status := rfl
@[simp] theorem State.advance_errCause (s : State) (n : Nat) : (s.advance n).errCause = s.errCause := rfl
@[simp] theorem State.advance_warnCount (s : State) (n : Nat) : (s.advance n).warnCount = s.warnCount := rfl
@[simp] theorem State.advance_warnMask (s : State) (n : Nat) : (s.advance n).warnMask = s.warnMask := rfl
@[simp] theorem State.advance_outLen (s : State) (n : Nat) : (s.advance n).outLen = s.outLen := rfl
@[simp] theorem State.advance_cfg (s : State) (n : Nat) :
    (s.advance n).cfg = { s.cfg with pos := s.cfg.pos + BitVec.ofNat 32 n } := rfl
@[simp] theorem State.advance_env (s : State) (n : Nat) : (s.advance n).env = s.env := rfl
@[simp] theorem State.advance_osc (s : State) (n : Nat) : (s.advance n).osc = s.osc := rfl
@[simp] theorem State.advance_gate (s : State) (n : Nat) : (s.advance n).gate = s.gate := rfl
@[simp] theorem State.advance_flt (s : State) (n : Nat) : (s.advance n).flt = s.flt := rfl
@[simp] theorem State.advance_mix (s : State) (n : Nat) : (s.advance n).mix = s.mix := rfl
@[simp] theorem State.advance_vs (s : State) (n : Nat) : (s.advance n).vs = s.vs := rfl
@[simp] theorem State.advance_vb (s : State) (n : Nat) : (s.advance n).vb = s.vb := rfl
@[simp] theorem State.advance_mb (s : State) (n : Nat) : (s.advance n).mb = s.mb := rfl
@[simp] theorem State.advance_img (s : State) (n : Nat) : (s.advance n).img = s.img := rfl
@[simp] theorem State.advance_pool (s : State) (n : Nat) : (s.advance n).pool = s.pool := rfl
@[simp] theorem State.advance_io (s : State) (n : Nat) : (s.advance n).io = s.io := rfl
@[simp] theorem State.advance_ldr (s : State) (n : Nat) : (s.advance n).ldr = s.ldr := rfl

/-! ### `markTrunc` -/

@[simp] theorem State.markTrunc_seq (s : State) : (s.markTrunc).seq = s.seq := rfl
@[simp] theorem State.markTrunc_cmd (s : State) : (s.markTrunc).cmd = s.cmd := rfl
@[simp] theorem State.markTrunc_pending (s : State) : (s.markTrunc).pending = s.pending := rfl
@[simp] theorem State.markTrunc_status (s : State) : (s.markTrunc).status = s.status := rfl
@[simp] theorem State.markTrunc_errCause (s : State) : (s.markTrunc).errCause = s.errCause := rfl
@[simp] theorem State.markTrunc_warnCount (s : State) : (s.markTrunc).warnCount = s.warnCount := rfl
@[simp] theorem State.markTrunc_warnMask (s : State) : (s.markTrunc).warnMask = s.warnMask := rfl
@[simp] theorem State.markTrunc_outLen (s : State) : (s.markTrunc).outLen = s.outLen := rfl
@[simp] theorem State.markTrunc_cfg (s : State) : (s.markTrunc).cfg = { s.cfg with trunc := true } := rfl
@[simp] theorem State.markTrunc_env (s : State) : (s.markTrunc).env = s.env := rfl
@[simp] theorem State.markTrunc_osc (s : State) : (s.markTrunc).osc = s.osc := rfl
@[simp] theorem State.markTrunc_gate (s : State) : (s.markTrunc).gate = s.gate := rfl
@[simp] theorem State.markTrunc_flt (s : State) : (s.markTrunc).flt = s.flt := rfl
@[simp] theorem State.markTrunc_mix (s : State) : (s.markTrunc).mix = s.mix := rfl
@[simp] theorem State.markTrunc_vs (s : State) : (s.markTrunc).vs = s.vs := rfl
@[simp] theorem State.markTrunc_vb (s : State) : (s.markTrunc).vb = s.vb := rfl
@[simp] theorem State.markTrunc_mb (s : State) : (s.markTrunc).mb = s.mb := rfl
@[simp] theorem State.markTrunc_img (s : State) : (s.markTrunc).img = s.img := rfl
@[simp] theorem State.markTrunc_pool (s : State) : (s.markTrunc).pool = s.pool := rfl
@[simp] theorem State.markTrunc_io (s : State) : (s.markTrunc).io = s.io := rfl
@[simp] theorem State.markTrunc_ldr (s : State) : (s.markTrunc).ldr = s.ldr := rfl

/-! ### `truncate` -/

@[simp] theorem State.truncate_seq (s : State) : (s.truncate).seq = s.seq := rfl
@[simp] theorem State.truncate_cmd (s : State) : (s.truncate).cmd = s.cmd := rfl
@[simp] theorem State.truncate_pending (s : State) : (s.truncate).pending = s.pending := rfl
@[simp] theorem State.truncate_status (s : State) : (s.truncate).status = s.status := rfl
@[simp] theorem State.truncate_errCause (s : State) : (s.truncate).errCause = s.errCause := rfl
@[simp] theorem State.truncate_warnCount (s : State) : (s.truncate).warnCount = s.warnCount := rfl
@[simp] theorem State.truncate_warnMask (s : State) : (s.truncate).warnMask = s.warnMask := rfl
@[simp] theorem State.truncate_outLen (s : State) : (s.truncate).outLen = s.outLen := rfl
@[simp] theorem State.truncate_cfg (s : State) :
    (s.truncate).cfg = { s.cfg with trunc := true, pos := s.cfg.len } := rfl
@[simp] theorem State.truncate_env (s : State) : (s.truncate).env = s.env := rfl
@[simp] theorem State.truncate_osc (s : State) : (s.truncate).osc = s.osc := rfl
@[simp] theorem State.truncate_gate (s : State) : (s.truncate).gate = s.gate := rfl
@[simp] theorem State.truncate_flt (s : State) : (s.truncate).flt = s.flt := rfl
@[simp] theorem State.truncate_mix (s : State) : (s.truncate).mix = s.mix := rfl
@[simp] theorem State.truncate_vs (s : State) : (s.truncate).vs = s.vs := rfl
@[simp] theorem State.truncate_vb (s : State) : (s.truncate).vb = s.vb := rfl
@[simp] theorem State.truncate_mb (s : State) : (s.truncate).mb = s.mb := rfl
@[simp] theorem State.truncate_img (s : State) : (s.truncate).img = s.img := rfl
@[simp] theorem State.truncate_pool (s : State) : (s.truncate).pool = s.pool := rfl
@[simp] theorem State.truncate_io (s : State) : (s.truncate).io = s.io := rfl
@[simp] theorem State.truncate_ldr (s : State) : (s.truncate).ldr = s.ldr := rfl

/-! ### `setEnvRegs` -/

@[simp] theorem State.setEnvRegs_seq (s : State) (e : Role) (x : EnvRegs) : (s.setEnvRegs e x).seq = s.seq := rfl
@[simp] theorem State.setEnvRegs_cmd (s : State) (e : Role) (x : EnvRegs) : (s.setEnvRegs e x).cmd = s.cmd := rfl
@[simp] theorem State.setEnvRegs_pending (s : State) (e : Role) (x : EnvRegs) : (s.setEnvRegs e x).pending = s.pending := rfl
@[simp] theorem State.setEnvRegs_status (s : State) (e : Role) (x : EnvRegs) : (s.setEnvRegs e x).status = s.status := rfl
@[simp] theorem State.setEnvRegs_errCause (s : State) (e : Role) (x : EnvRegs) : (s.setEnvRegs e x).errCause = s.errCause := rfl
@[simp] theorem State.setEnvRegs_warnCount (s : State) (e : Role) (x : EnvRegs) : (s.setEnvRegs e x).warnCount = s.warnCount := rfl
@[simp] theorem State.setEnvRegs_warnMask (s : State) (e : Role) (x : EnvRegs) : (s.setEnvRegs e x).warnMask = s.warnMask := rfl
@[simp] theorem State.setEnvRegs_outLen (s : State) (e : Role) (x : EnvRegs) : (s.setEnvRegs e x).outLen = s.outLen := rfl
@[simp] theorem State.setEnvRegs_cfg (s : State) (e : Role) (x : EnvRegs) : (s.setEnvRegs e x).cfg = s.cfg := rfl
@[simp] theorem State.setEnvRegs_env (s : State) (e : Role) (x : EnvRegs) : (s.setEnvRegs e x).env = s.env.set e x := rfl
@[simp] theorem State.setEnvRegs_osc (s : State) (e : Role) (x : EnvRegs) : (s.setEnvRegs e x).osc = s.osc := rfl
@[simp] theorem State.setEnvRegs_gate (s : State) (e : Role) (x : EnvRegs) : (s.setEnvRegs e x).gate = s.gate := rfl
@[simp] theorem State.setEnvRegs_flt (s : State) (e : Role) (x : EnvRegs) : (s.setEnvRegs e x).flt = s.flt := rfl
@[simp] theorem State.setEnvRegs_mix (s : State) (e : Role) (x : EnvRegs) : (s.setEnvRegs e x).mix = s.mix := rfl
@[simp] theorem State.setEnvRegs_vs (s : State) (e : Role) (x : EnvRegs) : (s.setEnvRegs e x).vs = s.vs := rfl
@[simp] theorem State.setEnvRegs_vb (s : State) (e : Role) (x : EnvRegs) : (s.setEnvRegs e x).vb = s.vb := rfl
@[simp] theorem State.setEnvRegs_mb (s : State) (e : Role) (x : EnvRegs) : (s.setEnvRegs e x).mb = s.mb := rfl
@[simp] theorem State.setEnvRegs_img (s : State) (e : Role) (x : EnvRegs) : (s.setEnvRegs e x).img = s.img := rfl
@[simp] theorem State.setEnvRegs_pool (s : State) (e : Role) (x : EnvRegs) : (s.setEnvRegs e x).pool = s.pool := rfl
@[simp] theorem State.setEnvRegs_io (s : State) (e : Role) (x : EnvRegs) : (s.setEnvRegs e x).io = s.io := rfl
@[simp] theorem State.setEnvRegs_ldr (s : State) (e : Role) (x : EnvRegs) : (s.setEnvRegs e x).ldr = s.ldr := rfl

end Sys2Proof.Machine
end

