-- ==== Sys2Proof/Laws/Image.lean ====
section
/-! SUPPORT. Laws of the image: a read after a write, and the canonical form, which every memory operation keeps. -/

namespace Sys2Proof.Machine

@[simp] theorem Image.read_nil (a : Nat) : Image.read [] a = none := rfl

/-- A byte just written is read back. -/
@[simp] theorem Image.read_write_same (m : Image) (a : Nat) (b : Byte) : (m.write a b).read a = some b := by
  induction m with
  | nil => simp [Image.write, Image.read]
  | cons c rest ih =>
    obtain ⟨a', b'⟩ := c
    unfold Image.write
    split
    · simp [Image.read]
    · split
      · simp [Image.read]
      · have h : (a == a') = false := by simp; omega
        simpa [Image.read, List.lookup, h] using ih

/-- A write leaves every other address alone. -/
theorem Image.read_write_other (m : Image) {a c : Nat} (b : Byte) (h : c ≠ a) : (m.write a b).read c = m.read c := by
  induction m with
  | nil => simp [Image.write, Image.read, List.lookup, show (c == a) = false by simp [h]]
  | cons d rest ih =>
    obtain ⟨a', b'⟩ := d
    unfold Image.write
    have hca : (c == a) = false := by simp [h]
    split
    · simp [Image.read, List.lookup, hca]
    · split
      · rename_i h1 h2
        subst h2
        simp [Image.read, List.lookup, hca]
      · simp only [Image.read, List.lookup] at ih ⊢
        cases hc : (c == a') with
        | true => rfl
        | false => exact ih

/-- The tail of a canonical image is canonical. -/
theorem Image.wf_tail {c : Host.Cell} {rest : Image} (h : Image.wf (c :: rest) = true) : Image.wf rest = true := by
  cases rest with
  | nil => rfl
  | cons d rest => simp only [Image.wf, Bool.and_eq_true] at h; exact h.2

/-- Canonical: the first address below every later one, and the tail canonical. -/
theorem Image.wf_cons {c : Host.Cell} {rest : Image} :
    Image.wf (c :: rest) = true ↔ (∀ d ∈ rest.head?, c.1 < d.1) ∧ Image.wf rest = true := by
  cases rest with
  | nil => simp [Image.wf]
  | cons d rest =>
    obtain ⟨a, b⟩ := c
    obtain ⟨a', b'⟩ := d
    simp [Image.wf]

/-- A write puts no address below the written one and the first one. -/
theorem Image.head_write (m : Image) (a : Nat) (b : Byte) (l : Nat) (hl : l < a)
    (hm : ∀ d ∈ m.head?, l < d.1) : ∀ d ∈ (m.write a b).head?, l < d.1 := by
  cases m with
  | nil => simp [Image.write, hl]
  | cons c rest =>
    obtain ⟨a', b'⟩ := c
    unfold Image.write
    split
    · simp [hl]
    · split
      · simp [hl]
      · simpa using hm

/-- A write keeps the canonical form. -/
theorem Image.wf_write (m : Image) (a : Nat) (b : Byte) (h : m.wf = true) : (m.write a b).wf = true := by
  induction m with
  | nil => rfl
  | cons c rest ih =>
    obtain ⟨a', b'⟩ := c
    unfold Image.write
    split
    · rename_i h1
      exact Image.wf_cons.2 ⟨by simpa using h1, h⟩
    · split
      · rename_i h2
        subst h2
        exact Image.wf_cons.2 ⟨(Image.wf_cons.1 h).1, Image.wf_tail h⟩
      · refine Image.wf_cons.2 ⟨?_, ih (Image.wf_tail h)⟩
        exact Image.head_write rest a b a' (by omega) (Image.wf_cons.1 h).1

@[simp] theorem Image.writeBytes_nil (m : Image) (a : Nat) : m.writeBytes a [] = m := rfl

@[simp] theorem Image.writeBytes_cons (m : Image) (a : Nat) (b : Byte) (bs : List Byte) :
    m.writeBytes a (b :: bs) = (m.write a b).writeBytes (a + 1) bs := rfl

/-- Consecutive writes keep the canonical form. -/
theorem Image.wf_writeBytes (m : Image) (a : Nat) (bs : List Byte) (h : m.wf = true) :
    (m.writeBytes a bs).wf = true := by
  induction bs generalizing m a with
  | nil => exact h
  | cons b rest ih => exact ih _ _ (Image.wf_write m a b h)

/-- Consecutive writes leave alone what lies before them. -/
theorem Image.read_writeBytes_before (m : Image) (a c : Nat) (bs : List Byte) (h : c < a) :
    (m.writeBytes a bs).read c = m.read c := by
  induction bs generalizing m a with
  | nil => rfl
  | cons b rest ih =>
    have h1 := ih (m.write a b) (a + 1) (by omega)
    rw [Image.read_write_other m b (by omega)] at h1
    exact h1

/-- Consecutive bytes are read back. -/
theorem Image.read_writeBytes (m : Image) (a k : Nat) (bs : List Byte) (h : k < bs.length) :
    (m.writeBytes a bs).read (a + k) = bs[k]? := by
  induction bs generalizing m a k with
  | nil => simp at h
  | cons b rest ih =>
    cases k with
    | zero =>
      rw [Image.writeBytes_cons, Nat.add_zero, Image.read_writeBytes_before _ _ _ _ (by omega)]
      simp
    | succ k =>
      have h1 := ih (m.write a b) (a + 1) k (by simpa using h)
      have e : a + (k + 1) = a + 1 + k := by omega
      rw [e]
      simpa using h1

/-- The image after reset is canonical. -/
@[simp] theorem State.reset_image_wf : State.reset.img.wf = true := rfl

end Sys2Proof.Machine
end

