-- ==== Sys2Proof/Laws/Loader.lean ====
section
/-! SUPPORT. What the reads at the loader's cursor can do, said once: each lemma names every outcome. -/

namespace Sys2Proof.Machine

/-- The bytes of an image from an address on, as one big-endian number on top of what was read before. -/
def bigEndian (acc : Nat) : List Byte → Nat
  | [] => acc
  | b :: rest => bigEndian (acc * 256 + b.toNat) rest

/-- A read of bytes that have been written. -/
theorem memRead_of_bytes (m : Image) (addr acc : Nat) (bs : List Byte)
    (h : ∀ k < bs.length, m.read (addr + k) = bs[k]?) :
    memRead m addr bs.length acc = .ok (bigEndian acc bs) := by
  induction bs generalizing addr acc with
  | nil => rfl
  | cons b rest ih =>
    have h0 : m.read addr = some b := by simpa using h 0 (by simp)
    have h1 := ih (addr + 1) (acc * 256 + b.toNat) (fun k hk => by
      have := h (k + 1) (by simpa using hk)
      rw [show addr + 1 + k = addr + (k + 1) by omega]
      simpa using this)
    simp only [List.length_cons, memRead, h0, bigEndian]
    exact h1

/-- A read that meets a byte that nothing has written, behind some that have been, faults with its address
(`10_state.md` R50; log 8). -/
theorem memRead_of_unwritten (m : Image) (addr acc n : Nat) (bs : List Byte) (hn : bs.length < n)
    (h : ∀ k < bs.length, m.read (addr + k) = bs[k]?) (hu : m.read (addr + bs.length) = none) :
    memRead m addr n acc = .error (.imgNoValue (addr + bs.length)) := by
  induction bs generalizing addr acc n with
  | nil =>
    cases n with
    | zero => simp at hn
    | succ n => simp only [List.length_nil, Nat.add_zero] at hu; simp [memRead, hu]
  | cons b rest ih =>
    cases n with
    | zero => simp at hn
    | succ n =>
      have h0 : m.read addr = some b := by simpa using h 0 (by simp)
      have e : addr + 1 + rest.length = addr + (b :: rest).length := by simp; omega
      have h1 := ih (addr + 1) (acc * 256 + b.toNat) n (by simpa using hn) (fun k hk => by
        have := h (k + 1) (by simpa using hk)
        rw [show addr + 1 + k = addr + (k + 1) by omega]
        simpa using this) (by rw [e]; exact hu)
      simp only [memRead, h0]
      rw [h1, e]

/-- A read with too few bytes remaining: 0, the truncation mark, the cursor at the end (`20_memory.md` R63). -/
theorem imgU_truncated (s : State) (n : Nat) (h : s.remaining < n) : imgU n s = .ok (0, s.truncate) := by
  simp [imgU, h]

/-- A read of bytes that stand at the cursor (`20_memory.md` R60, R62). -/
theorem imgU_of_bytes (s : State) (bs : List Byte) (hr : s.cfg.pos.toNat + bs.length ≤ s.cfg.len.toNat)
    (h : ∀ k < bs.length, s.img.read (s.cfg.pos.toNat + k) = bs[k]?) :
    imgU bs.length s = .ok (bigEndian 0 bs, s.advance bs.length) := by
  have h1 : ¬ s.remaining < bs.length := by unfold State.remaining; omega
  simp [imgU, h1, memRead_of_bytes s.img _ 0 bs h]

/-- A read at the cursor that meets a byte that nothing has written. -/
theorem imgU_of_unwritten (s : State) (n : Nat) (bs : List Byte) (hr : n ≤ s.remaining) (hn : bs.length < n)
    (h : ∀ k < bs.length, s.img.read (s.cfg.pos.toNat + k) = bs[k]?)
    (hu : s.img.read (s.cfg.pos.toNat + bs.length) = none) :
    imgU n s = .error (.fault (.imgNoValue (s.cfg.pos.toNat + bs.length))) := by
  simp [imgU, Nat.not_lt.2 hr, memRead_of_unwritten s.img _ 0 n bs hn h hu]

/-- A peek at a byte below the end that nothing has written. -/
theorem imgPeek_unwritten (s : State) (k : Nat) (hk : s.cfg.pos.toNat + k < s.cfg.len.toNat)
    (h : s.img.read (s.cfg.pos.toNat + k) = none) :
    imgPeek k s = .error (.fault (.imgNoValue (s.cfg.pos.toNat + k))) := by
  simp [imgPeek, hk, h]

/-- A peek before the end answers the byte and moves nothing (`20_memory.md` R64). -/
theorem imgPeek_some (s : State) (k : Nat) (b : Byte) (hk : s.cfg.pos.toNat + k < s.cfg.len.toNat)
    (h : s.img.read (s.cfg.pos.toNat + k) = some b) : imgPeek k s = .ok (some b, s) := by
  simp [imgPeek, hk, h]

/-- A peek past the end answers nothing and marks nothing (`20_memory.md` R64). -/
theorem imgPeek_none (s : State) (k : Nat) (hk : s.cfg.len.toNat ≤ s.cfg.pos.toNat + k) :
    imgPeek k s = .ok (none, s) := by
  simp [imgPeek, Nat.not_lt.2 hk]

/-- The cursor after a read that fits does not wrap. -/
theorem advance_pos_toNat (s : State) (n : Nat) (h : s.cfg.pos.toNat + n ≤ s.cfg.len.toNat) :
    (s.advance n).cfg.pos.toNat = s.cfg.pos.toNat + n := by
  have := s.cfg.len.isLt
  simp only [State.advance_cfg, BitVec.toNat_add, BitVec.toNat_ofNat]
  omega

/-- What `finish` makes of an operation that ends. -/
@[simp] theorem finish_ok (s : State) : finish (.ok ((), s)) = .next s := rfl

/-- A fatal exception is a next state (`60_exceptions.md` R360). -/
@[simp] theorem finish_fatal (s : State) : finish (.error (.fatal s)) = .next s := rfl

@[simp] theorem finish_fault (f : Fault) : finish (.error (.fault f)) = .fault f := rfl

/-- An operation performed as an instruction never refuses. -/
theorem finish_cases (r : Except Stop (Unit × State)) :
    (∃ s, r = .ok ((), s) ∧ finish r = .next s) ∨ (∃ s, r = .error (.fatal s) ∧ finish r = .next s) ∨
      (∃ f, r = .error (.fault f) ∧ finish r = .fault f) := by
  match r with
  | .ok (_, s) => exact .inl ⟨s, rfl, rfl⟩
  | .error (.fatal s) => exact .inr (.inl ⟨s, rfl, rfl⟩)
  | .error (.fault f) => exact .inr (.inr ⟨f, rfl, rfl⟩)

/-! ### Operations composed -/

theorem op_bind_ok {α β : Type} (m : Op α) (f : α → Op β) {s s' : State} {a : α} (h : m s = .ok (a, s')) :
    (m >>= f) s = f a s' := by
  show (do let (a, s) ← m s; f a s : Except Stop (β × State)) = _
  rw [h]
  rfl

theorem op_bind_error {α β : Type} (m : Op α) (f : α → Op β) {s : State} {e : Stop} (h : m s = .error e) :
    (m >>= f) s = .error e := by
  show (do let (a, s) ← m s; f a s : Except Stop (β × State)) = _
  rw [h]
  rfl

/-- A composed operation that ends did both its parts. -/
theorem op_bind_cases {α β : Type} (m : Op α) (f : α → Op β) (s : State) :
    (∃ a s', m s = .ok (a, s') ∧ (m >>= f) s = f a s') ∨ (∃ e, m s = .error e ∧ (m >>= f) s = .error e) := by
  cases h : m s with
  | ok r => exact .inl ⟨r.1, r.2, rfl, op_bind_ok m f (by simpa using h)⟩
  | error e => exact .inr ⟨e, rfl, op_bind_error m f h⟩

@[simp] theorem op_pure {α : Type} (a : α) (s : State) : (pure a : Op α) s = .ok (a, s) := rfl

@[simp] theorem op_modify (f : State → State) (s : State) : (modify f : Op Unit) s = .ok ((), f s) := rfl

@[simp] theorem op_get (s : State) : (get : Op State) s = .ok (s, s) := rfl

end Sys2Proof.Machine
end

