-- ==== Sys2Proof/Laws/Acquire.lean ====
section
/-! SUPPORT. What an acquisition of a buffer can do, and the operations that contain one: each answers its next state
where the platform supplies the buffer, and the entry of `E_FAIL` where it does not (`45_mixer.md` R331). -/

namespace Sys2Proof.Machine

/-- An operation that does not fault, performed as an instruction, answers a next state. -/
theorem finish_next {r : Except Stop (Unit × State)} (h : ∀ f, r ≠ .error (.fault f)) : ∃ t, finish r = .next t := by
  rcases r with (t | f) | ⟨⟨⟩, t⟩
  · exact ⟨t, rfl⟩
  · exact absurd rfl (h f)
  · exact ⟨t, rfl⟩

/-- A buffer of 0 words is always supplied. -/
@[simp] theorem supplies_zero : Config.params.supplies 0 = true := rfl

/-- `POOL.ACQUIRE`: the buffer and the pool after it, or the fatal entry with nothing else written. -/
theorem poolAcquire_eq (P : Params) (size : Nat) (s : State) :
    poolAcquire P size s = if P.supplies size then .ok (acquired P size s.pool, s.setPool (poolAfter P size s.pool))
      else .error (.fatal (s.fatalEntry .fail)) := rfl

theorem acquireVb_eq (P : Params) (size : Nat) (s : State) :
    acquireVb P size s = if P.supplies size then
        .ok ((), (s.setPool (poolAfter P size s.pool)).setVb (acquired P size s.pool))
      else .error (.fatal (s.fatalEntry .fail)) := by
  simp only [acquireVb, bind, StateT.bind, poolAcquire_eq]
  split <;> rfl

theorem acquireMb_eq (P : Params) (size : Nat) (s : State) :
    acquireMb P size s = if P.supplies size then
        .ok ((), (s.setPool (poolAfter P size s.pool)).setMb (acquired P size s.pool))
      else .error (.fatal (s.fatalEntry .fail)) := by
  simp only [acquireMb, bind, StateT.bind, poolAcquire_eq]
  split <;> rfl

/-- `POOL.ACQUIRE` as an instruction. -/
theorem execPoolAcquire_eq (s : State) :
    execPoolAcquire s = .next (if Config.params.supplies s.io.size.toNat then
        (s.setPool (poolAfter Config.params s.io.size.toNat s.pool)).setIo
          { s.io with buf := acquired Config.params s.io.size.toNat s.pool }
      else s.fatalEntry .fail) := by
  have h : poolAcquireLatched Config.params s =
      (poolAcquire Config.params s.io.size.toNat s).bind fun r => .ok ((), r.2.setIo { r.2.io with buf := r.1 }) := rfl
  simp only [execPoolAcquire, h, poolAcquire_eq]
  split <;> rfl

/-- The state in which `VOICE.SETUP` asks for the voice buffer (`43_voice_stages.md` R232). -/
def State.beforeVb (s : State) : State := (s.atStage .setup).setVs (setupLengths s.voice s.vs)

/-- `VOICE.SETUP`, every case. -/
theorem voiceSetup_eq (P : Params) (s : State) :
    voiceSetup P s =
      if s.voice.duration.toNat < P.minDuration then .ok ((), (s.atStage .setup).setVs { s.vs with count := 0 })
      else if P.supplies (ms2s s.voice.duration.toNat) then
        .ok ((), State.setupRest P ((s.beforeVb.setPool (poolAfter P (ms2s s.voice.duration.toNat) s.pool)).setVb
          (acquired P (ms2s s.voice.duration.toNat) s.pool)))
      else .error (.fatal (s.beforeVb.fatalEntry .fail)) := by
  have h : voiceSetup P s =
      if s.voice.duration.toNat < P.minDuration then .ok ((), (s.atStage .setup).setVs { s.vs with count := 0 })
      else (acquireVb P (ms2s s.voice.duration.toNat) s.beforeVb).bind fun r => .ok ((), State.setupRest P r.2) := by
    simp only [voiceSetup, bind, StateT.bind, modify, modifyGet, MonadStateOf.modifyGet, StateT.modifyGet, get, getThe,
      MonadStateOf.get, StateT.get, pure, Except.pure, Except.bind]
    change (if s.voice.duration.toNat < P.minDuration then _ else _ : Op Unit) (s.atStage .setup) = _
    split <;> rfl
  rw [h, acquireVb_eq]
  split
  · rfl
  · split <;> rfl

/-- `VOICE.RENDER`: the setup, and the stages where it acquired a buffer. -/
theorem voiceRender_eq (P : Params) (s : State) :
    voiceRender P s = (voiceSetup P s).bind fun r =>
      .ok ((), if r.2.vs.count = 0 then r.2 else (r.2.voiceSynth P).voiceStages P) := rfl

/-- Neither operation faults. -/
theorem voiceSetup_no_fault (P : Params) (s : State) (f : Fault) : voiceSetup P s ≠ .error (.fault f) := by
  rw [voiceSetup_eq]
  split
  · nofun
  · split <;> nofun

theorem voiceRender_no_fault (P : Params) (s : State) (f : Fault) : voiceRender P s ≠ .error (.fault f) := by
  rw [voiceRender_eq]
  cases h : voiceSetup P s with
  | ok r => nofun
  | error e => exact fun h' => voiceSetup_no_fault P s f (h.trans h')

/-- The voices of a render, one after the other. -/
theorem mixVoices_cons (P : Params) (v : Fin 10) (rest : List (Fin 10)) (s : State) :
    mixVoices P (v :: rest) s = (voiceRender P (s.atVoice v)).bind fun r => mixVoices P rest (r.2.mixIn P) := rfl

theorem mixVoices_nil (P : Params) (s : State) : mixVoices P [] s = .ok ((), s) := rfl

/-- No voice of a render faults. -/
theorem mixVoices_no_fault (P : Params) (l : List (Fin 10)) (s : State) (f : Fault) :
    mixVoices P l s ≠ .error (.fault f) := by
  induction l generalizing s with
  | nil => nofun
  | cons v rest ih =>
    rw [mixVoices_cons]
    cases h : voiceRender P (s.atVoice v) with
    | ok r => exact ih _
    | error e => exact fun h' => voiceRender_no_fault P (s.atVoice v) f (h.trans h')

end Sys2Proof.Machine
end

