-- ==== Sys2Proof/Laws/Arith.lean ====
section
/-! SUPPORT. Laws of the arithmetic and of the loops. -/

namespace Sys2Proof.Machine

@[simp] theorem forUp_zero {σ : Type} (body : Nat → σ → σ) (start : Nat) (s : σ) : forUp body start 0 s = s := rfl

@[simp] theorem forUp_succ {σ : Type} (body : Nat → σ → σ) (start count : Nat) (s : σ) :
    forUp body start (count + 1) s = forUp body (start + 1) count (body start s) := rfl

/-- An ascending loop of one more index ends with that index. -/
theorem forUp_last {σ : Type} (body : Nat → σ → σ) (start count : Nat) (s : σ) :
    forUp body start (count + 1) s = body (start + count) (forUp body start count s) := by
  induction count generalizing start s with
  | zero => rfl
  | succ k ih =>
    rw [forUp_succ, ih (start + 1) (body start s), forUp_succ, Nat.add_assoc, Nat.add_comm 1 k]

/-- An ascending loop keeps what its body keeps at each index. -/
theorem forUp_keeps {σ : Type} {body : Nat → σ → σ} {start count : Nat} {s : σ} (P : Nat → σ → Prop)
    (h0 : P start s)
    (h : ∀ n t, start ≤ n → n < start + count → P n t → P (n + 1) (body n t)) :
    P (start + count) (forUp body start count s) := by
  induction count generalizing start s with
  | zero => exact h0
  | succ k ih =>
    have h1 := ih (start := start + 1) (s := body start s) (h start s (Nat.le_refl _) (by omega) h0)
      (fun n t hn hk => h n t (by omega) (by omega))
    rw [forUp_succ]
    have e : start + (k + 1) = start + 1 + k := by omega
    rw [e]
    exact h1

@[simp] theorem forDown_zero {σ : Type} (body : Nat → σ → σ) (start : Nat) (s : σ) :
    forDown body start 0 s = s := rfl

@[simp] theorem forDown_succ {σ : Type} (body : Nat → σ → σ) (start count : Nat) (s : σ) :
    forDown body start (count + 1) s = forDown body start count (body (start + count) s) := rfl

/-- The arithmetic shift rounds toward minus infinity (`00_scope.md` R11). -/
theorem asr_toInt (a : Word) (k : Nat) : (asr a k).toInt = a.toInt / 2 ^ k := by
  unfold asr
  rw [BitVec.toInt_sshiftRight, Int.shiftRight_eq_div_pow]
  norm_num

/-- `wrap32` turns sums into sums. -/
theorem wrap32_add (x y : Int) : wrap32 (x + y) = wrap32 x + wrap32 y := by
  unfold wrap32
  exact BitVec.ofInt_add x y

/-- `wrap32` turns products into products. -/
theorem wrap32_mul (x y : Int) : wrap32 (x * y) = wrap32 x * wrap32 y := by
  unfold wrap32
  exact BitVec.ofInt_mul x y

@[simp] theorem wrap32_toInt (x : Word) : wrap32 x.toInt = x := by
  unfold wrap32
  exact BitVec.ofInt_toInt

/-- `wrap32` of an integer in the `s32` range is that integer. -/
theorem toInt_wrap32 {x : Int} (hl : -2147483648 ≤ x) (hu : x ≤ 2147483647) : (wrap32 x).toInt = x := by
  unfold wrap32
  rw [BitVec.toInt_ofInt]
  apply Int.bmod_eq_of_le <;> omega

/-- What `clip16` answers, as an integer (`00_scope.md` R12). -/
theorem clip16_toInt (x : Word) : (clip16 x).toInt = max (-32768) (min 32767 x.toInt) := by
  unfold clip16
  split
  · rw [toInt_wrap32 (by omega) (by omega)]; omega
  · split
    · rw [toInt_wrap32 (by omega) (by omega)]; omega
    · omega

/-- A clipped word is in the 16-bit range. -/
theorem clip16_range (x : Word) : -32768 ≤ (clip16 x).toInt ∧ (clip16 x).toInt ≤ 32767 := by
  rw [clip16_toInt]; omega

/-- A word in the range is not changed by the clip. -/
theorem clip16_of_range {x : Word} (hl : -32768 ≤ x.toInt) (hu : x.toInt ≤ 32767) : clip16 x = x := by
  unfold clip16
  rw [if_neg (by omega), if_neg (by omega)]

/-- Division toward zero does not go past its dividend (`41_envelope.md` R175). -/
theorem tdiv_mul_bounds (a : Int) (k : Int) (hk : 0 < k) (n : Int) (h0 : 0 ≤ n) (hn : n ≤ k) :
    min 0 a ≤ tdiv a k * n ∧ tdiv a k * n ≤ max 0 a := by
  unfold tdiv
  rcases Int.le_total 0 a with ha | ha
  · have h1 : 0 ≤ Int.tdiv a k := Int.tdiv_nonneg ha (le_of_lt hk)
    have h2 : Int.tdiv a k * k ≤ a := by
      have := Int.tdiv_mul_le a (ne_of_gt hk)
      rw [if_pos ha] at this; simpa using this
    constructor
    · rw [min_eq_left ha]; exact Int.mul_nonneg h1 h0
    · rw [max_eq_right ha]; exact (Int.mul_le_mul_of_nonneg_left hn h1).trans h2
  · have h1 : Int.tdiv (-a) k = -Int.tdiv a k := Int.neg_tdiv a k
    have h3 : 0 ≤ Int.tdiv (-a) k := Int.tdiv_nonneg (by omega) (le_of_lt hk)
    have h2 : Int.tdiv (-a) k * k ≤ -a := by
      have := Int.tdiv_mul_le (-a) (ne_of_gt hk)
      rw [if_pos (show 0 ≤ -a by omega)] at this; simpa using this
    have h4 := Int.mul_le_mul_of_nonneg_left hn h3
    have h5 := Int.mul_nonneg h3 h0
    rw [h1] at h2 h4 h5
    constructor
    · rw [min_eq_right ha]; nlinarith
    · rw [max_eq_left ha]; nlinarith

end Sys2Proof.Machine
end

