-- ==== Sys2Proof/Laws/Buffer.lean ====
section
/-! SUPPORT. Laws of the sample buffers: a read after a write, the length, the clip, and the pool. -/

namespace Sys2Proof.Machine

@[simp] theorem Buffer.length_write (b : Buffer) (i : Nat) (x : Word) :
    (b.write i x).words.length = b.words.length := by simp [Buffer.write]

@[simp] theorem Buffer.length_add (b : Buffer) (i : Nat) (x : Word) :
    (b.add i x).words.length = b.words.length := by simp [Buffer.add]

@[simp] theorem Buffer.array_write (b : Buffer) (i : Nat) (x : Word) : (b.write i x).array = b.array := rfl

@[simp] theorem Buffer.array_add (b : Buffer) (i : Nat) (x : Word) : (b.add i x).array = b.array := rfl

/-- The word just written is read back, where the access is performed at all. -/
theorem Buffer.read_write_same (b : Buffer) {i : Nat} (x : Word) (h : i < b.words.length) :
    (b.write i x).read i = some x := by simp [Buffer.write, Buffer.read, h]

/-- A write leaves every other word alone. -/
theorem Buffer.read_write_other (b : Buffer) {i j : Nat} (x : Word) (h : j ≠ i) :
    (b.write i x).read j = b.read j := by
  simp [Buffer.write, Buffer.read, Ne.symm h]

/-- An access outside the buffer is not performed (`20_memory.md` R66). -/
theorem Buffer.write_outside (b : Buffer) {i : Nat} (x : Word) (h : b.words.length ≤ i) : b.write i x = b := by
  simp [Buffer.write, List.set_eq_of_length_le h]

theorem Buffer.term_write_same (b : Buffer) {i : Nat} (x : Word) (h : i < b.words.length) :
    (b.write i x).term i = x := by simp [Buffer.term, Buffer.read_write_same b x h]

theorem Buffer.term_write_other (b : Buffer) {i j : Nat} (x : Word) (h : j ≠ i) :
    (b.write i x).term j = b.term j := by simp [Buffer.term, Buffer.read_write_other b x h]

theorem Buffer.term_add_same (b : Buffer) {i : Nat} (x : Word) (h : i < b.words.length) :
    (b.add i x).term i = b.term i + x := Buffer.term_write_same b _ h

theorem Buffer.term_add_other (b : Buffer) {i j : Nat} (x : Word) (h : j ≠ i) :
    (b.add i x).term j = b.term j := Buffer.term_write_other b _ h

/-- Where a word is held, `term` is that word. -/
theorem Buffer.read_eq_term (b : Buffer) {i : Nat} (h : i < b.words.length) : b.read i = some (b.term i) := by
  simp [Buffer.read, Buffer.term, List.getElem?_eq_getElem h]

@[simp] theorem Buffer.length_copy (b : Buffer) (i j : Nat) : (b.copy i j).words.length = b.words.length := by
  unfold Buffer.copy
  split <;> simp

/-- A word copied inside the buffer. -/
theorem Buffer.copy_eq_write (b : Buffer) {i : Nat} (j : Nat) (h : i < b.words.length) :
    b.copy i j = b.write j (b.term i) := by
  simp [Buffer.copy, Buffer.read_eq_term b h]

@[simp] theorem length_clipBelow (n : Nat) (l : List Word) : (clipBelow n l).length = l.length := by
  induction n generalizing l with
  | zero => rfl
  | succ n ih => cases l with
    | nil => rfl
    | cons x rest => simp [clipBelow, ih]

/-- The clip of the words below `n` (`43_voice_stages.md` R248, `45_mixer.md` R307). -/
theorem getElem?_clipBelow (n : Nat) (l : List Word) (j : Nat) :
    (clipBelow n l)[j]? = if j < n then (l[j]?).map clip16 else l[j]? := by
  induction n generalizing l j with
  | zero => simp [clipBelow]
  | succ n ih => cases l with
    | nil => simp [clipBelow]
    | cons x rest => cases j with
      | zero => simp [clipBelow]
      | succ j => simp [clipBelow, ih]

@[simp] theorem Buffer.length_clip (b : Buffer) (n : Nat) : (b.clip n).words.length = b.words.length := by
  simp [Buffer.clip]

/-- The clip, read word by word. -/
theorem Buffer.read_clip (b : Buffer) (n j : Nat) :
    (b.clip n).read j = if j < n then (b.read j).map clip16 else b.read j := getElem?_clipBelow n b.words j

/-- An acquired buffer has the size asked for. -/
@[simp] theorem length_acquired (P : Params) (size : Nat) (pool : List Nat) :
    (acquired P size pool).words.length = size := by simp [acquired]

/-- The array that serves a request is long enough (`45_mixer.md` R331). -/
theorem le_arrayFor (P : Params) (size : Nat) (pool : List Nat) : size ≤ arrayFor P size pool := by
  unfold arrayFor
  split
  · exact Nat.le_refl _
  · cases h : pool.find? (fun a => decide (size ≤ a)) with
    | none => simpa using by omega
    | some a => simpa using List.find?_some h

/-! ### Indices that hold a value (`10_state.md` R50) -/

/-- An index holds a value exactly where a read answers a word. -/
theorem Buffer.valued_iff (b : Buffer) (i : Nat) : b.valued i = true ↔ b.read i = some (b.term i) := by
  constructor
  · intro h
    exact b.read_eq_term (by simpa [Buffer.valued] using h)
  · intro h
    by_contra hn
    have : b.words.length ≤ i := by simpa [Buffer.valued] using hn
    simp [Buffer.read, List.getElem?_eq_none this] at h

/-- A buffer covers `n` words exactly where every index below `n` holds a value. -/
theorem Buffer.covers_iff (b : Buffer) (n : Nat) : b.covers n = true ↔ ∀ i < n, b.valued i = true := by
  simp only [Buffer.covers, Buffer.valued, decide_eq_true_eq]
  exact ⟨fun h i hi => by omega, fun h => by
    by_contra hn
    have := h b.words.length (by omega)
    omega⟩

/-- The reads of `VB` hold a value, and the operation does what it does; or it faults. -/
theorem needVb_cases (valued : Bool) (o : Host.Outcome State Fault Refusal) :
    (valued = true ∧ needVb valued o = o) ∨ (valued = false ∧ needVb valued o = .fault .vbNoValue) := by
  cases valued
  · exact .inr ⟨rfl, rfl⟩
  · exact .inl ⟨rfl, rfl⟩

/-- The same for `MB`. -/
theorem needMb_cases (valued : Bool) (o : Host.Outcome State Fault Refusal) :
    (valued = true ∧ needMb valued o = o) ∨ (valued = false ∧ needMb valued o = .fault .mbNoValue) := by
  cases valued
  · exact .inr ⟨rfl, rfl⟩
  · exact .inl ⟨rfl, rfl⟩

/-- An operation that needs `VB` completes exactly where the reads hold a value. -/
theorem needVb_eq_next {valued : Bool} {o : Host.Outcome State Fault Refusal} {t : State} :
    needVb valued o = .next t ↔ valued = true ∧ o = .next t := by
  cases valued <;> simp [needVb]

/-- The same for `MB`. -/
theorem needMb_eq_next {valued : Bool} {o : Host.Outcome State Fault Refusal} {t : State} :
    needMb valued o = .next t ↔ valued = true ∧ o = .next t := by
  cases valued <;> simp [needMb]

@[simp] theorem needVb_true (o : Host.Outcome State Fault Refusal) : needVb true o = o := rfl
@[simp] theorem needMb_true (o : Host.Outcome State Fault Refusal) : needMb true o = o := rfl

end Sys2Proof.Machine
end

