-- ==== Sys2Proof/Laws/Env.lean ====
section
/-! SUPPORT. What one evaluation of an envelope can do, said once. -/

namespace Sys2Proof.Machine

/-- An envelope without segments returns its start and changes no register (`41_envelope.md` R177). -/
theorem envEvalRegs_empty (E : Envelope) (r : EnvRegs) (period : Word) (h : E.segs = []) :
    envEvalRegs E r period = (E.start, r) := by simp [envEvalRegs, h]

/-- Between two advances: the level is returned and grows by the delta (`41_envelope.md` R173, R176). -/
theorem envEvalRegs_hold (E : Envelope) (r : EnvRegs) (period : Word) (h : E.segs ≠ [])
    (ht : r.ticks.toNat < r.thr.toNat) :
    envEvalRegs E r period = ((r.level.sshiftRight 15).setWidth 32,
      { r with level := r.level + r.delta, ticks := r.ticks + 1 }) := by
  have hs : E.segs.isEmpty = false := by simp [h]
  simp [envEvalRegs, hs, Nat.not_le.2 ht, Config.levelShift]

/-- An advance: the level is the peak reached, and what follows is read at the next index (`41_envelope.md` R173). -/
theorem envEvalRegs_advance (E : Envelope) (r : EnvRegs) (period : Word) (h : E.segs ≠ [])
    (ht : r.thr.toNat ≤ r.ticks.toNat) :
    envEvalRegs E r period = (((envAdvance E r period).level.sshiftRight 15).setWidth 32,
      { envAdvance E r period with
        level := (envAdvance E r period).level + (envAdvance E r period).delta
        ticks := r.ticks + 1 }) := by
  have hs : E.segs.isEmpty = false := by simp [h]
  simp [envEvalRegs, hs, ht, Config.levelShift, envAdvance]

@[simp] theorem EnvBank.get_set_same (b : EnvBank) (e : Role) (x : EnvRegs) : (b.set e x).get e = x := by
  cases e <;> rfl

/-- The evaluator instances do not interact (`41_envelope.md` R170). -/
theorem EnvBank.get_set_other (b : EnvBank) {e f : Role} (x : EnvRegs) (h : f ≠ e) :
    (b.set e x).get f = b.get f := by
  cases e <;> cases f <;> first | rfl | exact absurd rfl h

@[simp] theorem EnvBank.set_get (b : EnvBank) (e : Role) : b.set e (b.get e) = b := by cases e <;> rfl

end Sys2Proof.Machine
end

