-- ==== Sys2Proof/Laws/Exceptions.lean ====
section
/-! SUPPORT. What the entry of an exception writes, field by field, and what a released buffer leaves. -/

namespace Sys2Proof.Machine

/-- A saturating count is never 0 after a warning (`60_exceptions.md` R345). -/
theorem warnCountUp_ne_zero (c : BitVec 16) : warnCountUp c ≠ 0 := by
  unfold warnCountUp
  split
  · decide
  · bv_omega

/-- The count, as a number. -/
theorem warnCountUp_toNat (c : BitVec 16) : (warnCountUp c).toNat = min (c.toNat + 1) 65535 := by
  unfold warnCountUp
  have := c.isLt
  split
  · rename_i h; subst h; decide
  · have h' : c.toNat ≠ 65535 := fun h => by
      apply ‹¬_›; exact BitVec.eq_of_toNat_eq (by simpa using h)
    rw [BitVec.toNat_add]
    simp
    omega

@[simp] theorem State.raiseWarn_status (s : State) (c : Cause) :
    (s.raiseWarn c).status = { s.status with warn := true } := rfl
@[simp] theorem State.raiseWarn_warnCount (s : State) (c : Cause) :
    (s.raiseWarn c).warnCount = warnCountUp s.warnCount := rfl
@[simp] theorem State.raiseWarn_warnMask (s : State) (c : Cause) :
    (s.raiseWarn c).warnMask = s.warnMask ||| c.maskBit := rfl
@[simp] theorem State.raiseWarn_seq (s : State) (c : Cause) : (s.raiseWarn c).seq = s.seq := rfl
@[simp] theorem State.raiseWarn_errCause (s : State) (c : Cause) : (s.raiseWarn c).errCause = s.errCause := rfl
@[simp] theorem State.raiseWarn_outLen (s : State) (c : Cause) : (s.raiseWarn c).outLen = s.outLen := rfl
@[simp] theorem State.raiseWarn_cfg (s : State) (c : Cause) : (s.raiseWarn c).cfg = s.cfg := rfl
@[simp] theorem State.raiseWarn_img (s : State) (c : Cause) : (s.raiseWarn c).img = s.img := rfl
@[simp] theorem State.raiseWarn_mb (s : State) (c : Cause) : (s.raiseWarn c).mb = s.mb := rfl
@[simp] theorem State.raiseWarn_vb (s : State) (c : Cause) : (s.raiseWarn c).vb = s.vb := rfl
@[simp] theorem State.raiseWarn_io (s : State) (c : Cause) : (s.raiseWarn c).io = s.io := rfl
@[simp] theorem State.raiseWarn_ldr (s : State) (c : Cause) : (s.raiseWarn c).ldr = s.ldr := rfl

@[simp] theorem State.fatalEntry_errCause (s : State) (c : Cause) : (s.fatalEntry c).errCause = c.code := rfl
@[simp] theorem State.fatalEntry_status (s : State) (c : Cause) :
    (s.fatalEntry c).status = { s.status with busy := false, done := false, error := true } := rfl
@[simp] theorem State.fatalEntry_outLen (s : State) (c : Cause) : (s.fatalEntry c).outLen = 0 := rfl
@[simp] theorem State.fatalEntry_seq (s : State) (c : Cause) :
    (s.fatalEntry c).seq = { s.seq with state := .error } := rfl
@[simp] theorem State.fatalEntry_img (s : State) (c : Cause) : (s.fatalEntry c).img = s.img := rfl
@[simp] theorem State.fatalEntry_warnCount (s : State) (c : Cause) :
    (s.fatalEntry c).warnCount = s.warnCount := rfl
@[simp] theorem State.fatalEntry_warnMask (s : State) (c : Cause) : (s.fatalEntry c).warnMask = s.warnMask := rfl
@[simp] theorem State.fatalEntry_cfg (s : State) (c : Cause) :
    (s.fatalEntry c).cfg = if s.seq.state = .loading then s.cfg.cleared else s.cfg := rfl
@[simp] theorem State.fatalEntry_mb (s : State) (c : Cause) :
    (s.fatalEntry c).mb = if s.seq.state = .rendering then Buffer.blank else s.mb := rfl
@[simp] theorem State.fatalEntry_ldr (s : State) (c : Cause) : (s.fatalEntry c).ldr = s.ldr := rfl

/-- The start of a command, field by field (`60_exceptions.md` R353, `70_reset_and_hazards.md` R383). -/
@[simp] theorem State.beginCommand_status (s : State) (x : SeqState) :
    (s.beginCommand x).status = { s.status with busy := true, done := false } := rfl
@[simp] theorem State.beginCommand_seq (s : State) (x : SeqState) :
    (s.beginCommand x).seq = { s.seq with state := x } := rfl
@[simp] theorem State.beginCommand_vb (s : State) (x : SeqState) : (s.beginCommand x).vb = Buffer.blank := rfl
@[simp] theorem State.beginCommand_mb (s : State) (x : SeqState) : (s.beginCommand x).mb = Buffer.blank := rfl
@[simp] theorem State.beginCommand_cfg (s : State) (x : SeqState) : (s.beginCommand x).cfg = s.cfg := rfl
@[simp] theorem State.beginCommand_img (s : State) (x : SeqState) : (s.beginCommand x).img = s.img := rfl
@[simp] theorem State.beginCommand_outLen (s : State) (x : SeqState) : (s.beginCommand x).outLen = s.outLen := rfl
@[simp] theorem State.beginCommand_pool (s : State) (x : SeqState) : (s.beginCommand x).pool = s.pool := rfl
@[simp] theorem State.beginCommand_errCause (s : State) (x : SeqState) : (s.beginCommand x).errCause = s.errCause := rfl
@[simp] theorem State.beginCommand_warnCount (s : State) (x : SeqState) : (s.beginCommand x).warnCount = s.warnCount := rfl
@[simp] theorem State.beginCommand_warnMask (s : State) (x : SeqState) : (s.beginCommand x).warnMask = s.warnMask := rfl

/-- A slot of a cleared configuration is empty (`60_exceptions.md` R360). -/
@[simp] theorem vget_cleared_slot (c : Cfg) (v : Fin 10) : vget c.cleared.slot v = Slot.blank := by
  simp [vget, Cfg.cleared]

@[simp] theorem vget_vset_same {α : Type} {n : Nat} (x : Vector α n) (i : Fin n) (a : α) :
    vget (vset x i a) i = a := by simp [vget, vset]

/-- A register array read beside the element written. -/
theorem vget_vset_other {α : Type} {n : Nat} (x : Vector α n) {i j : Fin n} (a : α) (h : j ≠ i) :
    vget (vset x i a) j = vget x j := by
  have h' : i.val ≠ j.val := fun e => h (Fin.ext e.symm)
  simp [vget, vset, h']

/-- The voice of a slot written is the one written. -/
@[simp] theorem State.voiceOf_setSlot_same (s : State) (v : Fin 10) (x : Slot) :
    (s.setSlot v x).voiceOf v = x.voice := by simp [State.voiceOf]

/-- The voice of every other slot stays. -/
theorem State.voiceOf_setSlot_other (s : State) {v u : Fin 10} (x : Slot) (h : u ≠ v) :
    (s.setSlot v x).voiceOf u = s.voiceOf u := by simp [State.voiceOf, vget_vset_other _ _ h]

end Sys2Proof.Machine
end

