-- ==== Sys2Proof/Laws/PerInstr.lean ====
section
/-! SUPPORT. Statements for all instructions, one lemma per constructor. -/

namespace Sys2Proof.Laws

/-- A smart integer is one or two bytes (`30_encoding.md` R101, R102, R103). -/
theorem length_encodeSmart (x : Smart) : 1 ≤ (encodeSmart x).length ∧ (encodeSmart x).length ≤ 2 := by
  cases x <;> simp [encodeSmart]

/-- Every row has at least one byte, no row has more than the longest, and it consumes no more than it has. -/
def EncodeLength.Statement (i : Instr) : Prop :=
  1 ≤ (encode i).length ∧ (encode i).length ≤ longestRow ∧ consumed i ≤ (encode i).length

/-- The statement of every instruction, from which the lemma of each constructor is read off. -/
theorem encodeLength_all (i : Instr) : EncodeLength.Statement i := by
  cases i
  case imgPartial a p d =>
    have h0 := length_encodeSmart a
    have h1 := length_encodeSmart p
    have h2 := length_encodeSmart d
    simp only [EncodeLength.Statement, encode, consumed, List.length_append, longestRow]
    omega
  case imgEcho d m =>
    have h0 := length_encodeSmart d
    have h1 := length_encodeSmart m
    simp only [EncodeLength.Statement, encode, consumed, List.length_append, longestRow]
    omega
  case imgPartialEnd a =>
    have h0 := length_encodeSmart a
    simp only [EncodeLength.Statement, encode, consumed, longestRow]
    omega
  all_goals simp [EncodeLength.Statement, encode, consumed, encodeSmart, bytes16, bytes32, longestRow]

theorem EncodeLength.cmdLoad : EncodeLength.Statement .cmdLoad := encodeLength_all _

theorem EncodeLength.cmdRender : EncodeLength.Statement .cmdRender := encodeLength_all _

theorem EncodeLength.cmdReset : EncodeLength.Statement .cmdReset := encodeLength_all _

theorem EncodeLength.cfgLoad : EncodeLength.Statement .cfgLoad := encodeLength_all _

theorem EncodeLength.cfgSlot : EncodeLength.Statement .cfgSlot := encodeLength_all _

theorem EncodeLength.cfgVoice : EncodeLength.Statement .cfgVoice := encodeLength_all _

theorem EncodeLength.cfgEnvrec : EncodeLength.Statement .cfgEnvrec := encodeLength_all _

theorem EncodeLength.cfgOptpair : EncodeLength.Statement .cfgOptpair := encodeLength_all _

theorem EncodeLength.cfgPartials : EncodeLength.Statement .cfgPartials := encodeLength_all _

theorem EncodeLength.cfgEchorec : EncodeLength.Statement .cfgEchorec := encodeLength_all _

theorem EncodeLength.cfgTimes : EncodeLength.Statement .cfgTimes := encodeLength_all _

theorem EncodeLength.cfgFilter : EncodeLength.Statement .cfgFilter := encodeLength_all _

theorem EncodeLength.cfgLooksenv : EncodeLength.Statement .cfgLooksenv := encodeLength_all _

theorem EncodeLength.cfgFilterbody : EncodeLength.Statement .cfgFilterbody := encodeLength_all _

theorem EncodeLength.cfgCutenv : EncodeLength.Statement .cfgCutenv := encodeLength_all _

theorem EncodeLength.cfgLooprec : EncodeLength.Statement .cfgLooprec := encodeLength_all _

theorem EncodeLength.cfgNormalise : EncodeLength.Statement .cfgNormalise := encodeLength_all _

theorem EncodeLength.envReset : EncodeLength.Statement .envReset := encodeLength_all _

theorem EncodeLength.envEval : EncodeLength.Statement .envEval := encodeLength_all _

theorem EncodeLength.genOff : EncodeLength.Statement .genOff := encodeLength_all _

theorem EncodeLength.genSquare : EncodeLength.Statement .genSquare := encodeLength_all _

theorem EncodeLength.genSine : EncodeLength.Statement .genSine := encodeLength_all _

theorem EncodeLength.genSaw : EncodeLength.Statement .genSaw := encodeLength_all _

theorem EncodeLength.genNoise : EncodeLength.Statement .genNoise := encodeLength_all _

theorem EncodeLength.lfoVib : EncodeLength.Statement .lfoVib := encodeLength_all _

theorem EncodeLength.lfoTrem : EncodeLength.Statement .lfoTrem := encodeLength_all _

theorem EncodeLength.oscPartial : EncodeLength.Statement .oscPartial := encodeLength_all _

theorem EncodeLength.oscSample : EncodeLength.Statement .oscSample := encodeLength_all _

theorem EncodeLength.voiceSetup : EncodeLength.Statement .voiceSetup := encodeLength_all _

theorem EncodeLength.voiceSynth : EncodeLength.Statement .voiceSynth := encodeLength_all _

theorem EncodeLength.gateInit : EncodeLength.Statement .gateInit := encodeLength_all _

theorem EncodeLength.gateStep : EncodeLength.Statement .gateStep := encodeLength_all _

theorem EncodeLength.echoApply : EncodeLength.Statement .echoApply := encodeLength_all _

theorem EncodeLength.voiceClip : EncodeLength.Statement .voiceClip := encodeLength_all _

theorem EncodeLength.voiceRender : EncodeLength.Statement .voiceRender := encodeLength_all _

theorem EncodeLength.fltCoef : EncodeLength.Statement .fltCoef := encodeLength_all _

theorem EncodeLength.fltStep : EncodeLength.Statement .fltStep := encodeLength_all _

theorem EncodeLength.fltApply : EncodeLength.Statement .fltApply := encodeLength_all _

theorem EncodeLength.mixLen : EncodeLength.Statement .mixLen := encodeLength_all _

theorem EncodeLength.mixAcc : EncodeLength.Statement .mixAcc := encodeLength_all _

theorem EncodeLength.mixLoop : EncodeLength.Statement .mixLoop := encodeLength_all _

theorem EncodeLength.mixClip : EncodeLength.Statement .mixClip := encodeLength_all _

theorem EncodeLength.mixRender : EncodeLength.Statement .mixRender := encodeLength_all _

theorem EncodeLength.poolAcquire : EncodeLength.Statement .poolAcquire := encodeLength_all _

theorem EncodeLength.poolRelease : EncodeLength.Statement .poolRelease := encodeLength_all _

theorem EncodeLength.wfOff : EncodeLength.Statement .wfOff := encodeLength_all _

theorem EncodeLength.wfSquare : EncodeLength.Statement .wfSquare := encodeLength_all _

theorem EncodeLength.wfSine : EncodeLength.Statement .wfSine := encodeLength_all _

theorem EncodeLength.wfSaw : EncodeLength.Statement .wfSaw := encodeLength_all _

theorem EncodeLength.wfNoise : EncodeLength.Statement .wfNoise := encodeLength_all _

theorem EncodeLength.wfReservedAsOff (w : Byte) : EncodeLength.Statement (.wfReservedAsOff w) := encodeLength_all _

theorem EncodeLength.imgSlotEmpty : EncodeLength.Statement .imgSlotEmpty := encodeLength_all _

theorem EncodeLength.imgSlotVoice (v : Byte) : EncodeLength.Statement (.imgSlotVoice v) := encodeLength_all _

theorem EncodeLength.imgEnvHeader (w : Byte) (start : Word) (stop : Word) (n : Byte) : EncodeLength.Statement (.imgEnvHeader w start stop n) := encodeLength_all _

theorem EncodeLength.imgSegment (dur : BitVec 16) (peak : BitVec 16) : EncodeLength.Statement (.imgSegment dur peak) := encodeLength_all _

theorem EncodeLength.imgPairAbsent : EncodeLength.Statement .imgPairAbsent := encodeLength_all _

theorem EncodeLength.imgPairPresent (v : Byte) : EncodeLength.Statement (.imgPairPresent v) := encodeLength_all _

theorem EncodeLength.usmart1 (v : BitVec 7) : EncodeLength.Statement (.usmart1 v) := encodeLength_all _

theorem EncodeLength.usmart2 (v : BitVec 15) : EncodeLength.Statement (.usmart2 v) := encodeLength_all _

theorem EncodeLength.ssmart1 (v : BitVec 7) : EncodeLength.Statement (.ssmart1 v) := encodeLength_all _

theorem EncodeLength.ssmart2 (v : BitVec 15) : EncodeLength.Statement (.ssmart2 v) := encodeLength_all _

theorem EncodeLength.imgPartial (amplitude : Smart) (pitchOffset : Smart) (delay : Smart) : EncodeLength.Statement (.imgPartial amplitude pitchOffset delay) := encodeLength_all _

theorem EncodeLength.imgPartialEnd (amplitude : Smart) : EncodeLength.Statement (.imgPartialEnd amplitude) := encodeLength_all _

theorem EncodeLength.imgEcho (delay : Smart) (mix : Smart) : EncodeLength.Statement (.imgEcho delay mix) := encodeLength_all _

theorem EncodeLength.imgTimes (duration : BitVec 16) (start : BitVec 16) : EncodeLength.Statement (.imgTimes duration start) := encodeLength_all _

theorem EncodeLength.imgFilterAbsent : EncodeLength.Statement .imgFilterAbsent := encodeLength_all _

theorem EncodeLength.imgFilterHeader (count0 : BitVec 4) (count1 : BitVec 4) (gain0 : BitVec 16) (gain1 : BitVec 16) (mask : Byte) : EncodeLength.Statement (.imgFilterHeader count0 count1 gain0 gain1 mask) := encodeLength_all _

theorem EncodeLength.imgPole (phase : BitVec 16) (magnitude : BitVec 16) : EncodeLength.Statement (.imgPole phase magnitude) := encodeLength_all _

theorem EncodeLength.imgCutoffEnv (n : Byte) : EncodeLength.Statement (.imgCutoffEnv n) := encodeLength_all _

theorem EncodeLength.imgLoop (first : BitVec 16) (last : BitVec 16) : EncodeLength.Statement (.imgLoop first last) := encodeLength_all _

end Sys2Proof.Laws
end

