-- ==== Sys2Proof/Laws/Rows.lean ====
section
/-! SUPPORT. What the rows of the image write into the latches and the latched slot, what a cut row can do, and what
the host's accesses can do. -/

namespace Sys2Proof.Machine

@[simp] theorem State.putHeader_io (s : State) (E : Envelope) (n : Byte) :
    (s.putHeader E n).io = { s.io with env1 := E } := rfl
@[simp] theorem State.putHeader_ldr (s : State) (E : Envelope) (n : Byte) :
    (s.putHeader E n).ldr = { s.ldr with left := n } := rfl
@[simp] theorem State.putHeader_cfg (s : State) (E : Envelope) (n : Byte) : (s.putHeader E n).cfg = s.cfg := rfl
@[simp] theorem State.putSegment_io (s : State) (g : Segment) :
    (s.putSegment g).io = { s.io with env1 := { s.io.env1 with segs := s.io.env1.segs ++ [g] } } := rfl
@[simp] theorem State.putSegment_cfg (s : State) (g : Segment) : (s.putSegment g).cfg = s.cfg := rfl
@[simp] theorem State.putPair_io (s : State) (p : EnvPair) :
    (s.putPair p).io = { s.io with present := p.present, env1 := p.first, env2 := p.second } := rfl
@[simp] theorem State.putPair_cfg (s : State) (p : EnvPair) : (s.putPair p).cfg = s.cfg := rfl
@[simp] theorem State.putSmart_io (s : State) (x : Int) : (s.putSmart x).io = { s.io with smart := wrap32 x } := rfl
@[simp] theorem State.putSmart_cfg (s : State) (x : Int) : (s.putSmart x).cfg = s.cfg := rfl
@[simp] theorem State.putWaveform_io (s : State) (w : Nat) :
    (s.putWaveform w).io = { s.io with env1 := { s.io.env1 with waveform := waveformOf w } } := rfl
@[simp] theorem State.putWaveform_cfg (s : State) (w : Nat) : (s.putWaveform w).cfg = s.cfg := rfl

/-- Partials go to the end of the latched slot's list. -/
@[simp] theorem State.putPartials_voice (s : State) (l : List Partial) :
    (s.putPartials l).voiceOf s.ldr.slot =
      { s.voiceOf s.ldr.slot with partials := (s.voiceOf s.ldr.slot).partials ++ l } := by
  simp [State.putPartials, State.mapVoice]

/-- A filter header makes the latched slot's filter present. -/
@[simp] theorem State.putFilterHeader_voice (s : State) (h : Filter × Byte) :
    (s.putFilterHeader h).voiceOf s.ldr.slot =
      { s.voiceOf s.ldr.slot with filterPresent := true, filter := h.1 } :=
  State.voiceOf_setSlot_same s _ _

@[simp] theorem State.putFilterHeader_ldr (s : State) (h : Filter × Byte) :
    (s.putFilterHeader h).ldr = { s.ldr with mask := h.2, plan := planOf h } := rfl

/-- A pole goes where the plan says, or nowhere. -/
theorem State.putPole_cases (s : State) (x : Pole) :
    (s.ldr.plan = [] ∧ s.putPole x = s) ∨
      (∃ k rest, s.ldr.plan = k :: rest ∧ s.putPole x =
        (s.mapVoice s.ldr.slot fun V => { V with filter := storePole s.ldr.mask k x V.filter }).setLdr
          { s.ldr with plan := rest }) := by
  unfold State.putPole
  cases s.ldr.plan with
  | nil => exact .inl ⟨rfl, rfl⟩
  | cons k rest => exact .inr ⟨k, rest, rfl, rfl⟩

/-- A row that the end of the image cuts never refuses: it completes, raises the fatal exception of its filter header,
or faults on a byte that nothing has written. -/
theorem execCutRow_cases (place : Place) (s : State) :
    (∃ t, cutRow place s = .ok ((), t) ∧ execCutRow place s = .next t) ∨
      (∃ t, cutRow place s = .error (.fatal t) ∧ execCutRow place s = .next t) ∨
      (∃ f, cutRow place s = .error (.fault f) ∧ execCutRow place s = .fault f) :=
  finish_cases (cutRow place s)

/-! ### The host -/

/-- A write to `CMD` is accepted, and the step to come performs it; or it changes nothing (`60_exceptions.md` R352). -/
theorem State.hostCommand_cases (s : State) (code : Byte) :
    (s.acceptsCommand code = true ∧ s.hostCommand code = (s.setCmd code).setPending (some .operation)) ∨
      (s.acceptsCommand code = false ∧ s.hostCommand code = s) := by
  unfold State.hostCommand
  cases h : s.acceptsCommand code
  · exact .inr ⟨rfl, rfl⟩
  · exact .inl ⟨rfl, rfl⟩

end Sys2Proof.Machine
end

