-- ==== Sys2Proof/Tests/Slice0.lean ====
section
/-! SUPPORT. Tests: the refusals of WellFormed, the decoding of words written out from the spec's encoding tables, one
step of each family against numbers of `95_test_vectors.md`, and a witness for the hypotheses of each statement. -/

-- One test after another: many at once would each hold a stack of its own.
set_option Elab.async false

namespace Sys2Proof.Tests

open Sys2Proof Sys2Proof.Machine

/-! ### WellFormed refuses -/

theorem test_reserved_waveform_from_5 : Instr.wellFormed (.wfReservedAsOff 4) = false := by decide
theorem test_voice_slot_not_zero : Instr.wellFormed (.imgSlotVoice 0) = false := by decide
theorem test_present_pair_not_zero : Instr.wellFormed (.imgPairPresent 0) = false := by decide
theorem test_partial_amplitude_not_zero : Instr.wellFormed (.imgPartial (.two 0) (.one 64) (.one 0)) = false := by
  decide
theorem test_list_end_is_zero : Instr.wellFormed (.imgPartialEnd (.one 1)) = false := by decide
theorem test_filter_header_not_zero : Instr.wellFormed (.imgFilterHeader 0 0 1 1 0) = false := by decide

/-! ### Words written out from `30_encoding.md` -/

/-- A word of one byte at a place, and the row it is. -/
def reads (place : Place) (bs : List Byte) (i : Instr) (left : List Byte) : Bool :=
  decode place bs == .ok (i, left)

/-- R112: high nibble the family, low nibble the operation. -/
theorem test_decode_commands :
    (reads .operation [0b00000001] .cmdLoad [] && reads .operation [0b00000010] .cmdRender []
      && reads .operation [0b00000011] .cmdReset []) = true := by decide
theorem test_decode_cfg :
    (reads .operation [0b00010000] .cfgLoad [] && reads .operation [0b00010001] .cfgSlot []
      && reads .operation [0b00010010] .cfgVoice [] && reads .operation [0b00010011] .cfgEnvrec []
      && reads .operation [0b00010100] .cfgOptpair [] && reads .operation [0b00010101] .cfgPartials []
      && reads .operation [0b00010110] .cfgEchorec [] && reads .operation [0b00010111] .cfgTimes []
      && reads .operation [0b00011000] .cfgFilter [] && reads .operation [0b00011001] .cfgLooksenv []
      && reads .operation [0b00011010] .cfgFilterbody [] && reads .operation [0b00011011] .cfgCutenv []
      && reads .operation [0b00011100] .cfgLooprec [] && reads .operation [0b00011101] .cfgNormalise []) = true := by
  decide
theorem test_decode_env_gen :
    (reads .operation [0b00100000] .envReset [] && reads .operation [0b00100001] .envEval []
      && reads .operation [0b00110000] .genOff [] && reads .operation [0b00110001] .genSquare []
      && reads .operation [0b00110010] .genSine [] && reads .operation [0b00110011] .genSaw []
      && reads .operation [0b00110100] .genNoise []) = true := by decide
theorem test_decode_lfo_osc :
    (reads .operation [0b00111000] .lfoVib [] && reads .operation [0b00111001] .lfoTrem []
      && reads .operation [0b00111010] .oscPartial [] && reads .operation [0b00111011] .oscSample []) = true := by
  decide
theorem test_decode_voice :
    (reads .operation [0b01000000] .voiceSetup [] && reads .operation [0b01000001] .voiceSynth []
      && reads .operation [0b01000010] .gateInit [] && reads .operation [0b01000011] .gateStep []
      && reads .operation [0b01000100] .echoApply [] && reads .operation [0b01000101] .voiceClip []
      && reads .operation [0b01000110] .voiceRender []) = true := by decide
theorem test_decode_flt_mix_pool :
    (reads .operation [0b01010000] .fltCoef [] && reads .operation [0b01010001] .fltStep []
      && reads .operation [0b01010010] .fltApply [] && reads .operation [0b01100000] .mixLen []
      && reads .operation [0b01100001] .mixAcc [] && reads .operation [0b01100010] .mixLoop []
      && reads .operation [0b01100011] .mixClip [] && reads .operation [0b01100100] .mixRender []
      && reads .operation [0b01110000] .poolAcquire [] && reads .operation [0b01110001] .poolRelease []) = true := by
  decide
theorem test_decode_unassigned :
    (decode .operation [0b00110101] == .error (.unassigned 0x35) && decode .operation [0] == .error (.unassigned 0)
      && decode .segment [1, 2, 3] == .error (.short .segment)) = true := by decide
/-- R105. -/
theorem test_decode_waveforms :
    (reads .waveform [0] .wfOff [] && reads .waveform [1] .wfSquare [] && reads .waveform [2] .wfSine []
      && reads .waveform [3] .wfSaw [] && reads .waveform [4] .wfNoise []
      && reads .waveform [5] (.wfReservedAsOff 5) [] && reads .waveform [0xFF] (.wfReservedAsOff 255) []) = true := by
  decide
/-- R92, R96, R110 (e): the zero byte is consumed, another is only looked at. -/
theorem test_decode_markers :
    (reads .slot [0, 7] .imgSlotEmpty [7] && reads .slot [1, 7] (.imgSlotVoice 1) [1, 7]
      && reads .pair [0, 7] .imgPairAbsent [7] && reads .pair [3, 7] (.imgPairPresent 3) [3, 7]
      && reads .filter [0, 7] .imgFilterAbsent [7]) = true := by decide
/-- R94: `01 00000ABE FFFFFFFD 02`. -/
theorem test_decode_env_header :
    reads .envHeader [0x01, 0x00, 0x00, 0x0A, 0xBE, 0xFF, 0xFF, 0xFF, 0xFD, 0x02]
      (.imgEnvHeader 1 2750 (BitVec.ofInt 32 (-3)) 2) [] = true := by decide
/-- R95, R99, R109, R100: two u16 each, the first in the first two bytes. -/
theorem test_decode_u16_pairs :
    (reads .segment [0x80, 0x00, 0x03, 0xE8] (.imgSegment 32768 1000) []
      && reads .times [0x00, 0x0A, 0x01, 0x00] (.imgTimes 10 256) []
      && reads .pole [0x10, 0x00, 0x20, 0x01] (.imgPole 4096 8193) []
      && reads .loop [0x00, 0x08, 0x00, 0x10] (.imgLoop 8 16) []) = true := by decide
/-- R101, R102: the top bit of the first byte tells the length. -/
theorem test_decode_smart :
    (reads .usmart [0b01111111] (.usmart1 127) [] && reads .usmart [0b10000000, 0b10000000] (.usmart2 128) []
      && reads .ssmart [0b00000000] (.ssmart1 0) [] && reads .ssmart [0b10111111, 0b11000000] (.ssmart2 0x3FC0) [])
      = true := by decide
/-- R97, R98. -/
theorem test_decode_lists :
    (reads .oscillator [0x64, 0x40, 0x80, 0x05] (.imgPartial (.one 100) (.one 64) (.two 5)) []
      && reads .oscillator [0x80, 0x00, 9] (.imgPartialEnd (.two 0)) [9]
      && reads .echo [0x01, 0x32] (.imgEcho (.one 1) (.one 50)) []) = true := by decide
/-- R100, R106, R107, R108: `21 0100 0001 11`, and a cutoff count. -/
theorem test_decode_filter :
    (reads .filter [0x21, 0x01, 0x00, 0x00, 0x01, 0x11] (.imgFilterHeader 2 1 256 1 0x11) []
      && reads .cutoff [0x02] (.imgCutoffEnv 2) []) = true := by decide
/-- The values of smart integers (V22). -/
theorem test_smart_values :
    (unsignedSmart (.two 0x7FFF) = 32767 ∧ signedSmart (.one 0) = -64 ∧ signedSmart (.two 0x3FC0) = -64
      ∧ signedSmart (.two 0x7FFF) = 16383) := by decide

/-! ### A state for tests -/

/-- Parameters for illustration (`95_test_vectors.md`): the scale of its rendering vectors, and real functions that are
enough where the spec's numbers do not depend on them. -/
def vector : Params where
  minDuration := 10
  phaseScale := ⟨4096, 125⟩
  pitchRatio := fun _ => ⟨1, 1⟩
  sine := fun _ => 16384
  noise := fun j => if j = 0 then 1 else -1
  unityDbScale := 1 / 300
  magDbScale := 1 / 600
  phaseOctScale := 1 / 8000
  num := ⟨fun _ => 1 / 2, fun _ => 1, fun _ => 1, 3, (· + ·), (· * ·), (· / ·)⟩
  poolCapacity := 300
  poolMax := 2
  outCapacity := none
  supplies := fun _ => true
  gateShift := 8
  gateInitMuted := true
  ffTapBase := 0
  baseUsesPitchRatio := true

/-- The same with every voice short. -/
def allShort : Params := { vector with minDuration := 65536 }

/-- The same on a platform that cannot supply a buffer of 220 words. -/
def scarce : Params := { vector with supplies := fun size => size != 220 }

/-- After reset, with an image of these bytes. -/
def image (bs : List Byte) : State := State.reset.hostImage bs

/-- After reset, with these fields of the voice of slot 0. -/
def voiced (f : Voice → Voice) : State := State.reset.setSlot 0 ⟨true, f Voice.blank⟩

/-- The state an outcome leads to, the reset state where there is none. -/
def after (o : Host.Outcome State Fault Refusal) : State :=
  match o with
  | .next s => s
  | _ => State.reset

/-- The first 33 bytes of program P3 (V30): one square voice of 10 ms without its filter field. -/
def squareBytes : List Byte :=
  [0x01, 0x00, 0x00, 0x0A, 0xBE, 0x00, 0x00, 0x0A, 0xBE, 0x00] ++
  [0x00, 0x00, 0x00, 0x40, 0x00, 0x00, 0x00, 0x40, 0x00, 0x00] ++
  [0, 0, 0, 0x64, 0x40, 0x00, 0x00, 0x00, 0x00, 0x00, 0x0A, 0x00, 0x00]

/-- Program P3, 47 bytes. -/
def squarePatch : List Byte := squareBytes ++ [0] ++ List.replicate 9 0 ++ [0, 0, 0, 0]

/-- An envelope with segments, at the role the latch names after reset. -/
def ramp : Envelope := ⟨.square, 100, 0, [⟨0, 0⟩, ⟨32768, 1000⟩, ⟨65535, 0⟩]⟩

/-- The evaluator of the latched role in slot 0. -/
def ramped (r : EnvRegs) : State :=
  ((voiced fun V => { V with frequency := ramp }).setEnvRegs .freq r).setIo { State.reset.io with period := 8 }

/-! ### One step, against the spec's numbers -/

/-- V25 T-ENV-1, reset. -/
theorem test_env_reset : (after (exec .envReset (ramped ⟨7, 7, 7, 7, 7⟩))).env.freq = ⟨3276800, 0, 1, 0, 0⟩ := by
  decide +kernel
/-- V25 T-ENV-1, call 1. -/
theorem test_env_advance :
    ((after (exec .envEval (ramped ⟨3276800, 0, 1, 0, 1⟩))).env.freq,
      (after (exec .envEval (ramped ⟨3276800, 0, 1, 0, 1⟩))).io.value) = (⟨10922666, 10922666, 4, 1, 2⟩, 0) := by
  decide +kernel
/-- V26. -/
theorem test_generators :
    ((genSquare 1000 8191).toInt, (genSquare 1000 8192).toInt, (genSaw 70000 32767).toInt,
      (genSaw (BitVec.ofInt 32 (-1000)) 16385).toInt, (genNoise vector 300 2607).toInt,
      (genSine { vector with sine := fun _ => -16384 } 3 0).toInt) = (1000, -1000, -192149, -1, -300, -3) := by
  decide +kernel
/-- R199, R200: the examples of both rules. -/
theorem test_lfo :
    ((2750 : Word) + asr (oscGen vector 100 0 .square) 1 = 2800
      ∧ tremolo 16384 (asr (oscGen vector 32768 0 .square) 1) = 24576) := by decide +kernel
/-- R202: the example. -/
theorem test_partial : oscGen vector (asr ((16384 : Word) * 16384) 15) 0 .square = 8192 := by decide +kernel
/-- V30: the setup registers of P3. -/
theorem test_voice_setup :
    let s := after (finish (voiceSetup vector (voiced fun V => { V with
      frequency := ⟨.square, 2750, 2750, []⟩, partials := [⟨100, 0, 0⟩], duration := 10 })))
    (s.vs.count, ratOf s.vs.sps, vget s.vs.vol 0, vget s.vs.inc 0, vget s.vs.base 0, s.vb.words.length)
      = (220, 22, 16384, 0, 4096, 220) := by decide +kernel
/-- R331, R347, R360: the buffer of a 10 ms voice is not supplied. -/
theorem test_voice_not_supplied :
    let s := after (finish (voiceSetup scarce (voiced fun V => { V with duration := 10 })))
    (s.vs.count, s.vs.echoDelay, s.vb, s.seq.state, s.errCause, s.status.error)
      = (220, 0, Buffer.blank, .error, 0x12, true) := by decide +kernel
/-- R242: the example of the rule, threshold 512. -/
theorem test_gate_step :
    let s := ((voiced fun V => { V with gate := ⟨true, ⟨.off, 0, 512, [⟨0, 256⟩]⟩, ⟨.off, 0, 0, []⟩⟩ }).setEnv
      { State.reset.env with gsil := ⟨0, 0, 1, 0, 1⟩ }).setGate ⟨256, true, 0⟩
    ((s.gateStep vector).gate) = ⟨0, false, 512⟩ := by decide +kernel
/-- R245: the example. -/
theorem test_echo : ((⟨[100, 0, 0, 0, 0], 5⟩ : Buffer).echo 2 5 50).words = [100, 0, 50, 0, 25] := by decide +kernel
/-- R248: the example. -/
theorem test_clip :
    ((⟨[40000, BitVec.ofInt 32 (-40000), 5], 3⟩ : Buffer).clip 3).words = [32767, BitVec.ofInt 32 (-32768), 5] := by
  decide +kernel
/-- V27 T-FLT-5, the second sample. -/
theorem test_filter_step :
    let s := (((voiced fun V => { V with filter := { Filter.blank with fb := { Channel.blank with count := 1 } } }).setFlt
      { State.reset.flt with
        g := 65536
        fb := overlay State.reset.flt.fb [BitVec.ofInt 32 (-32768), 16384] }).setVb ⟨[1000, 0, 0], 3⟩).setVs
          { State.reset.vs with count := 3 }
    (s.fltStep vector 1).vb.words = [1000, 500, 0] := by decide +kernel
/-- V27 T-FLT-7. -/
theorem test_filter_identity :
    let r := fltCoefRegs vector (headerFilter 1 1 0 0 0) { State.reset.flt with ff := Vector.replicate 8 9 }
    (r.g, vget r.ff 0, vget r.ff 1, vget r.ff 2) = (65536, 0, 0, 9) := by decide +kernel
/-- V27 T-FLT-6. -/
theorem test_filter_schedule : (List.range 400).filter (coefHere 400 2 4) = [0, 132, 260, 388] := by decide +kernel
/-- V32: the lengths of P5 with `loopCount` 3, and with a region that ends beyond the pass. -/
theorem test_mix_len :
    let c := (voiced fun V => { V with duration := 10, start := 4 }).cfg
    ((mixLengths { c with loopBegin := 8, loopEnd := 16, loopCount := 3 }).total,
      (mixLengths { c with loopBegin := 8, loopEnd := 309, loopCount := 3 }).total) = (324, 308) := by decide +kernel
/-- R304: the example. -/
theorem test_mix_acc : (accumulate ⟨[0, 0, 0, 0], 4⟩ ⟨[7, 8, 9], 3⟩ 2 3 4).words = [0, 0, 7, 8] := by decide +kernel
/-- R306: the example. -/
theorem test_mix_loop :
    ((⟨[1, 2, 3, 4, 5, 0, 0, 0, 0], 9⟩ : Buffer).expand 5 1 3 3).words = [1, 2, 3, 2, 3, 2, 3, 4, 5] := by
  decide +kernel
/-- R331, R332: zeros, and only an array of the fixed capacity is kept. -/
theorem test_pool :
    ((acquired vector 3 [300]).words, arrayFor vector 3 [], poolReleased vector ⟨[], 299⟩ [],
      poolReleased vector ⟨[], 300⟩ []) = ([0, 0, 0], 300, [], [300]) := by decide +kernel
/-- R331, R347, R360: the mix buffer of 308 words is supplied, the voice's of 220 is not, and the render fails as a
whole. -/
theorem test_render_not_supplied :
    let s := after (finish (cmdRender scarce (voiced fun V => { V with duration := 10, start := 4 })))
    (s.mix.total, s.outLen, s.mb, s.vb, s.seq.state, s.errCause, s.status)
      = (308, 0, Buffer.blank, Buffer.blank, .error, 0x12, ⟨false, false, true, false⟩) := by decide +kernel
/-- V23 T-CFG-7: the truncated filter, two warnings. -/
theorem test_truncated_filter :
    let s := after (exec .cmdLoad (image (squareBytes ++ [0x11, 0x01, 0x00, 0x01, 0x00, 0x11, 0x10, 0x00])))
    (s.isValid 0, (s.voiceOf 0).filterPresent, s.warnCount, s.warnMask, s.cfg.pos, s.seq.state)
      = (true, false, 2, 3, 41, .idle) := by decide +kernel
/-- V23 T-CFG-8: the reserved pole count. -/
theorem test_reserved_pole_count :
    let s := after (exec .cmdLoad (image (squareBytes ++ [0x50])))
    (s.errCause, s.seq.state, s.status, s.isValid 0) = (0x11, .error, ⟨false, false, true, false⟩, false) := by
  decide +kernel
/-- R63 at a place of the image: three bytes of a segment, and nothing where a filter may stand (R138). -/
theorem test_cut_rows :
    let s := after (step ((image [0x80, 0x00, 0x03]).setPending (some .segment)))
    let u := after (step ((image []).setPending (some .filter)))
    (s.io.env1.segs, s.cfg.trunc, s.cfg.pos, u.cfg.trunc) = ([⟨32768, 0⟩], true, 3, false) := by decide +kernel
/-- R50: a word of the voice buffer that no value has been given. -/
theorem test_read_beyond_buffer :
    exec .voiceClip (State.reset.setVs { State.reset.vs with count := 1 }) = .fault .vbNoValue
      ∧ exec .voiceClip State.reset = .next (State.reset.atStage .clip) := ⟨rfl, rfl⟩
/-- R383: from the start of a command neither buffer holds a value, so a read faults. -/
theorem test_command_empties_buffers :
    let s := ((State.reset.setMb ⟨[7], 1⟩).setVb ⟨[8], 1⟩).setMix ⟨1, 1, false, 1⟩
    let t := after (exec .cmdLoad s)
    (t.mb = Buffer.blank ∧ t.vb = Buffer.blank) ∧ after (exec .mixClip s) = (s.atStage .finalClip).atN 0 ∧
      (match exec .mixClip t with | .fault f => f | _ => .vbNoValue) = .mbNoValue := by decide +kernel
/-- R72, R352: a second command and a write between the acceptance and the step are refused. -/
theorem test_accepted_command :
    let s := State.reset.hostCommand 0x02
    (s.hostCommand 0x01 = s ∧ s.hostWrite (.loopCount 5) = s ∧ s.hostStatus.busy = true ∧ s ≠ State.reset) := by
  decide +kernel
/-- R267: the four coefficients of two poles, as the rule writes them. -/
theorem test_cascade : cascade vector.num [3, 5] (7, 11) = [3 + 7, 3 * 7 + 5 + 11, 3 * 11 + 7 * 5, 5 * 11] := by
  decide +kernel
/-- V24: the bound of the start value. -/
theorem test_heuristic :
    ((after (exec .cfgLooksenv (image [2, 0x00, 0x98, 0x96, 0x80, 0, 0, 0, 0, 3]))).io.looksEnv,
      (after (exec .cfgLooksenv (image [2, 0x00, 0x98, 0x96, 0x81, 0, 0, 0, 0, 3]))).io.looksEnv) = (true, false) := by
  decide +kernel
/-- V29: the empty patch renders to nothing. -/
theorem test_empty_patch :
    let s := after (exec .cmdRender (after (exec .cmdLoad (image (List.replicate 14 0)))))
    (s.outLen, s.status.done, s.seq.state, s.warnCount) = (0, true, .done, 0) := by decide +kernel
/-- An envelope row and a segment row fill the latched record. -/
theorem test_rows :
    (after (exec (.imgSegment 5 9) (after (exec (.imgEnvHeader 7 1 2 1) State.reset)))).io.env1
      = ⟨.off, 1, 2, [⟨5, 9⟩]⟩ := by decide +kernel
/-- The step takes what stands in the command register. -/
theorem test_step_runs_command :
    (after (step (State.reset.withFetchWord 8 0x02))).seq.state = .done := by decide +kernel
/-- The step takes a record at the cursor. -/
theorem test_step_runs_record :
    (after (step (State.reset.withFetchWord 32 0x80000003))).io.env1.segs = [⟨32768, 3⟩] := by decide +kernel

/-! ### The hypotheses of the statements are met -/

theorem witness_RoundTrip :
    Instr.wellFormed (.imgPartial (.one 1) (.two 0) (.two 32767)) = true
      ∧ Instr.wellFormed (.wfReservedAsOff 5) = true ∧ Instr.wellFormed (.imgFilterHeader 0 1 0 0 0) = true := by decide
theorem witness_DecodeSound :
    decode .oscillator [0x80, 0x00, 0x01] = .ok (.imgPartialEnd (.two 0), [0x01]) := by decide
theorem witness_StepRunsDecoded :
    let s := (State.reset.setCmd 0x71).setPending (some .operation)
    let u := (State.reset.setCmd 0x72).setPending (some .operation)
    let v := (image [1, 2, 3]).setPending (some .segment)
    State.reset.pending = none ∧
      s.pending = some .operation ∧ decode .operation (fetchBytes .operation s) = .ok (.poolRelease, []) ∧
      v.pending = some .segment ∧ decode .segment (fetchBytes .segment v) = .error (.short .segment) ∧
      u.pending = some .operation ∧ decode .operation (fetchBytes .operation u) = .error (.unassigned 0x72) := by
  decide +kernel
theorem witness_StepRunsEncoded :
    let s := (State.reset.setCmd 0x01).setPending (some .operation)
    let u := (image [0x80, 0x00, 0x00, 0x03, 0x55]).setPending (some .segment)
    (Instr.wellFormed .cmdLoad = true ∧ s.pending = some (placeOf .cmdLoad) ∧ encode .cmdLoad = [s.cmd]) ∧
      (Instr.wellFormed (.imgSegment 32768 3) = true ∧ u.pending = some (placeOf (.imgSegment 32768 3)) ∧
        placeOf (.imgSegment 32768 3) ≠ .operation ∧ u.holds (encode (.imgSegment 32768 3))) := by decide +kernel
/-- One value at a boundary of each clause: 127, 128, -64, -65, 32768, 16384. -/
theorem witness_SmartIntegers :
    ((0 : Int) ≤ 127 ∧ (127 : Int) ≤ 127) ∧ ((128 : Int) ≤ 128 ∧ (128 : Int) ≤ 32767) ∧
      ((-64 : Int) ≤ -64 ∧ (-64 : Int) ≤ 63) ∧
      ((-16384 : Int) ≤ -65 ∧ (-65 : Int) ≤ 16383 ∧ ((-65 : Int) < -64 ∨ (63 : Int) < -65)) ∧
      ((32768 : Int) < 0 ∨ (32767 : Int) < 32768) ∧ ((16384 : Int) < -16384 ∨ (16383 : Int) < 16384) := by decide
theorem witness_EnvEval :
    (State.reset.voice.envelope State.reset.io.role).segs = [] ∧
    (let s := ramped ⟨0, 0, 1, 0, 0⟩
     (s.voice.envelope s.io.role).segs ≠ [] ∧ (s.env.get s.io.role).ticks.toNat < (s.env.get s.io.role).thr.toNat) ∧
    (let s := ramped ⟨0, 0, 1, 2, 1⟩
     (s.env.get s.io.role).idx.toNat < (s.voice.envelope s.io.role).segs.length ∧
       (s.voice.envelope s.io.role).segs.length ≤ 255 ∧
       (s.env.get s.io.role).thr.toNat ≤ (s.env.get s.io.role).ticks.toNat) := by decide +kernel
theorem witness_EnvelopeBounds :
    let s := ramped ⟨0, 0, 0, 0, 0⟩
    let E := s.voice.envelope s.io.role
    E.segs ≠ [] ∧ (0 : Int) ≤ E.start.toInt ∧ E.start.toInt ≤ 1000 ∧
      (∀ g ∈ E.segs, (0 : Int) ≤ g.peak.toInt ∧ g.peak.toInt ≤ 1000) ∧ 1 ≤ 4294967295 ∧
      4294967295 < 4294967296 := by decide +kernel
theorem witness_GeneratorsWithinAmplitude :
    let s := fun a : Int => State.reset.setIo { State.reset.io with amp := BitVec.ofInt 32 a }
    (-131072 < (s 131071).io.amp.toInt ∧ (s 131071).io.amp.toInt < 131072) ∧
      (-65536 < (s (-65535)).io.amp.toInt ∧ (s (-65535)).io.amp.toInt < 65536) ∧
      -2147483648 < (s (-2147483647)).io.amp.toInt := by decide +kernel

/-- Slot 0 with both low-frequency oscillators. -/
def wobbling : State := voiced fun V => { V with
  pitchLfo := ⟨true, ramp, Envelope.blank⟩, amplitudeLfo := ⟨true, ramp, Envelope.blank⟩ }

theorem witness_LowFrequencyOscillators :
    State.reset.voice.pitchLfo.present = false ∧ wobbling.voice.pitchLfo.present = true ∧
      State.reset.voice.amplitudeLfo.present = false ∧ wobbling.voice.amplitudeLfo.present = true := by decide +kernel
theorem witness_ZeroDepth :
    let s := wobbling.setIo { State.reset.io with ampl := BitVec.ofInt 32 (-65536) }
    (s.voice.pitchLfo.present = true ∧ s.voice.pitchLfo.second.segs = [] ∧ s.voice.pitchLfo.second.start = 0) ∧
      (s.voice.amplitudeLfo.present = true ∧ s.voice.amplitudeLfo.second.segs = [] ∧
        s.voice.amplitudeLfo.second.start = 0 ∧ -65536 ≤ s.io.ampl.toInt ∧ s.io.ampl.toInt < 65536) := by decide +kernel

/-- Two samples of slot 0, a buffer of two words, at sample 0. -/
def twoWords : State :=
  ((voiced fun V => { V with echoMix := 50, filter := headerFilter 1 4 0 0 0 }).setVb ⟨[5, 6], 2⟩).setVs
    { State.reset.vs with count := 2, echoDelay := 1 }

/-- The same with the buffer gone, and a partial. -/
def noWords : State :=
  (twoWords.setVb ⟨[], 0⟩).mapVoice 0 fun V => { V with partials := [⟨100, 0, 0⟩] }

theorem witness_OscPartial :
    State.reset.vs.count.toNat ≤ State.reset.seq.n.toNat + (vget State.reset.vs.delay State.reset.seq.i).toNat ∧
      twoWords.seq.n.toNat + (vget twoWords.vs.delay twoWords.seq.i).toNat < twoWords.vs.count.toNat ∧
      twoWords.seq.n.toNat + (vget twoWords.vs.delay twoWords.seq.i).toNat < twoWords.vb.words.length ∧
      noWords.seq.n.toNat + (vget noWords.vs.delay noWords.seq.i).toNat < noWords.vs.count.toNat ∧
      noWords.vb.words.length ≤ noWords.seq.n.toNat + (vget noWords.vs.delay noWords.seq.i).toNat := by decide +kernel
theorem witness_OscSample :
    (let s := noWords.setVb ⟨[5], 1⟩
     s.voice.partials.length = 1 ∧ s.vb.words.length < s.vs.count.toNat ∧
      ∀ i : Fin 10, (decide (i.val < s.voice.partials.length)
          && decide (s.seq.n.toNat + (vget s.vs.delay i).toNat < s.vs.count.toNat)) = true →
        s.seq.n.toNat + (vget s.vs.delay i).toNat < s.vb.words.length) ∧
      (0 : Fin 10).val < noWords.voice.partials.length ∧
      noWords.seq.n.toNat + (vget noWords.vs.delay 0).toNat < noWords.vs.count.toNat ∧
      noWords.vb.words.length ≤ noWords.seq.n.toNat + (vget noWords.vs.delay 0).toNat := by decide +kernel
theorem witness_VoiceSynth :
    twoWords.vs.count.toNat ≤ twoWords.vb.words.length ∧
      (0 : Fin 10).val < noWords.voice.partials.length ∧
      (vget noWords.vs.delay 0).toNat < noWords.vs.count.toNat ∧
      noWords.vb.words.length < noWords.vs.count.toNat := by decide +kernel
theorem witness_EchoApply :
    (twoWords.vs.count.toNat ≤ twoWords.vb.words.length ∧ 0 < twoWords.vs.echoDelay.toNat ∧
      twoWords.vs.echoDelay.toNat ≤ 1 ∧ 1 < twoWords.vs.count.toNat) ∧
      (let s := twoWords.setVs { twoWords.vs with echoDelay := 0 }
       s.vs.count.toNat ≤ s.vb.words.length ∧ s.vs.echoDelay.toNat = 0 ∧ 0 < s.vs.count.toNat) ∧
      (noWords.vb.words.length < noWords.vs.count.toNat ∧ noWords.vs.echoDelay.toNat < noWords.vs.count.toNat) := by
  decide +kernel
theorem witness_Clips :
    twoWords.vs.count.toNat ≤ twoWords.vb.words.length ∧ noWords.vb.words.length < noWords.vs.count.toNat ∧
      State.reset.mix.total.toNat ≤ State.reset.mb.words.length ∧
      (State.reset.setMix ⟨0, 1, false, 1⟩).mb.words.length < (State.reset.setMix ⟨0, 1, false, 1⟩).mix.total.toNat := by
  decide +kernel
theorem witness_VoicesShareNothing :
    let u := (((twoWords.setVb ⟨[9], 1⟩).setPool [4]).setGate ⟨7, true, 7⟩).setVs { twoWords.vs with count := 1 }
    u ≠ twoWords ∧ twoWords.cfg.slot = u.cfg.slot ∧ twoWords.seq.voice = u.seq.voice := by decide +kernel
theorem witness_FilterStep :
    (twoWords.voice.filter.ff.count.toNat ≤ 4 ∧ twoWords.voice.filter.fb.count.toNat ≤ 4 ∧
      twoWords.seq.n.toNat < twoWords.vs.count.toNat ∧ twoWords.vs.count.toNat ≤ twoWords.vb.words.length) ∧
    (noWords.voice.filter.ff.count.toNat ≤ 4 ∧ noWords.voice.filter.fb.count.toNat ≤ 4 ∧ 1 < noWords.vs.count.toNat ∧
      noWords.vb.words.length ≤ 1 ∧ noWords.seq.n.toNat < 1 ∧
      1 ≤ noWords.seq.n.toNat + 2 * noWords.voice.filter.ff.count.toNat) := by decide +kernel
theorem witness_FilterApply :
    twoWords.vs.count.toNat ≤ twoWords.vb.words.length ∧
      (noWords.vb.words.length < noWords.vs.count.toNat ∧ noWords.voice.filter.ff.count.toNat ≤ 4 ∧
        1 < noWords.vs.count.toNat) := by decide +kernel
theorem witness_FilterIdentity :
    let F := twoWords.voice.filter
    (∀ p : Fin 4, p.val < F.ff.count.toNat → (vget F.ff.first p).magnitude = 0 ∧ (vget F.ff.last p).magnitude = 0) ∧
      (∀ p : Fin 4, p.val < F.fb.count.toNat → (vget F.fb.first p).magnitude = 0 ∧ (vget F.fb.last p).magnitude = 0) ∧
      F.ff.count = 1 ∧ F.fb.count = 4 ∧ F.gain0 = 0 ∧ F.gain1 = 0 := by decide +kernel
theorem witness_FilterCascade :
    (∀ x y, vector.num.add x y = x + y) ∧ (∀ x y, vector.num.mul x y = x * y) ∧
      0 < ([] : List Rat).length + 2 ∧ (headerFilter 2 0 0 0 0).ff.count = 2 :=
  ⟨fun _ _ => rfl, fun _ _ => rfl, by decide, rfl⟩
theorem witness_MixAcc :
    let s := twoWords.setMix ⟨2, 2, false, 1⟩
    let full := s.setMb ⟨[1, 1], 2⟩
    let adds := fun s : State => min s.vs.count.toNat (s.mix.single.toNat - s.voice.start.toNat * 22050 / 1000)
    (adds full ≤ full.vb.words.length ∧ adds full = 2 ∧ 2 ≤ full.mb.words.length) ∧
      (noWords.setMix ⟨2, 2, false, 1⟩).vb.words.length < adds (noWords.setMix ⟨2, 2, false, 1⟩) ∧
      (adds s ≤ s.vb.words.length ∧ 0 < adds s ∧ s.mb.words.length < adds s) := by decide +kernel
theorem witness_MixLoop :
    (State.reset.mix.loopValid = false ∨ State.reset.mix.reps.toNat ≤ 1) ∧
    (let r := (State.reset.setCfg { State.reset.cfg with loopBegin := 0, loopEnd := 1 }).setMix ⟨1, 2, true, 2⟩
     let s := r.setMb ⟨[3, 0], 2⟩
     s.mix.loopValid = true ∧ 1 < s.mix.reps.toNat ∧ s.cfg.loopBegin.toNat < s.cfg.loopEnd.toNat ∧
       s.cfg.loopEnd.toNat ≤ s.mix.single.toNat ∧
       s.mix.single.toNat + (s.cfg.loopEnd.toNat - s.cfg.loopBegin.toNat) * (s.mix.reps.toNat - 1)
         ≤ s.mb.words.length ∧ r.mb.words.length < r.mix.single.toNat) := by decide +kernel
theorem witness_EnvelopeRecords :
    let segs : List (BitVec 16 × BitVec 16) := [(1, 65535), (65535, 0)]
    segs.length ≤ 255 ∧ (image (envelopeBytes 1 2750 7 segs ++ [9])).holds (envelopeBytes 1 2750 7 segs) ∧
      (image (2 :: segmentBytes segs)).holds (BitVec.ofNat 8 segs.length :: segmentBytes segs) := by decide +kernel
/-- A record cut in its header, behind a segment, and behind a duration, at both ends of each range. -/
theorem witness_EnvelopeRecords_cut :
    let whole := encode (.imgEnvHeader 1 2750 7 2) ++ segmentBytes [(1, 65535)]
    State.reset.remaining = 0 ∧
      ((image [1, 0, 0, 9]).holds [1] ∧ (image [1, 0, 0, 9]).remaining < 5) ∧
      ((image (whole.take 5)).holds (1 :: bytes32 2750) ∧ (image (whole.take 5)).remaining < 9) ∧
      ((image (whole.take 9)).holds (1 :: bytes32 2750 ++ bytes32 7) ∧ (image (whole.take 9)).remaining < 10) ∧
      [(1, 65535)].length < (2 : Byte).toNat ∧
      ((image (whole ++ [5])).holds whole ∧ (image (whole ++ [5])).remaining < whole.length + 2) ∧
      ((image (whole ++ [5, 6, 7])).holds (whole ++ bytes16 0x0506) ∧
        (image (whole ++ [5, 6, 7])).remaining < (whole ++ bytes16 0x0506).length + 2) ∧
      ((image [2, 9, 9, 9]).holds [2, 9, 9] ∧ (image [2, 9, 9, 9]).remaining < [2, 9, 9].length + 2) := by decide +kernel
/-- An image of these bytes whose length is set to `len`: the bytes behind them have never been written. -/
def unwrittenFrom (bs : List Byte) (len : Word) : State := (image bs).hostWrite (.imageLength len)

/-- A record of 14 bytes, the first or the last of them unwritten; and a cutoff record of 5. -/
theorem witness_EnvelopeRecords_unwritten :
    let record := envelopeBytes 1 2750 7 [(4, 5)]
    let cutoff := (1 : Byte) :: segmentBytes [(4, 5)]
    let a := unwrittenFrom [] 14
    let b := unwrittenFrom (record.take 13) 14
    let c := unwrittenFrom (cutoff.take 4) 5
    (a.img.read 0 = none ∧ record.length ≤ a.remaining ∧ a.holds (record.take 0)) ∧
      (b.img.read 13 = none ∧ record.length ≤ b.remaining ∧ b.holds (record.take 13)) ∧
      (c.img.read 4 = none ∧ cutoff.length ≤ c.remaining ∧ c.holds (cutoff.take 4)) := by decide +kernel
theorem witness_EnvelopeRowsAgree :
    ([] : List (BitVec 16 × BitVec 16)).length ≤ 255 ∧ (image (envelopeBytes 9 0 1 [])).holds (envelopeBytes 9 0 1 []) := by
  decide +kernel
theorem witness_OptionalPair :
    let bs := envelopeBytes 1 2 3 [(4, 5)] ++ envelopeBytes 0 6 7 []
    State.reset.remaining = 0 ∧ (image [0, 8]).holds [0] ∧ ((1 : Byte) ≠ 0 ∧ (image bs).holds bs) ∧
      ((3 : Byte) ≠ 0 ∧ (image [3]).holds [3]) := by decide +kernel
theorem witness_OscillatorList :
    let e : Smart × Smart × Smart := (.one 100, .one 64, .two 5)
    let ten := List.replicate 10 e
    let body := fun l : List (Smart × Smart × Smart) =>
      l.flatMap fun e => encodeSmart e.1 ++ encodeSmart e.2.1 ++ encodeSmart e.2.2
    (∀ x ∈ ten, x.1.isZero = false) ∧ (Smart.two 0).isZero = true ∧ (image (body ten)).holds (body ten) ∧
      (image (body [e] ++ encodeSmart (.two 0))).holds (body [e] ++ encodeSmart (.two 0)) ∧
      (image [0]).holds (body [] ++ encodeSmart (.one 0)) := by decide +kernel
/-- A list that ends after an entry, after an amplitude, after a pitch offset, with and without half a smart integer. -/
theorem witness_OscillatorList_cut :
    (Smart.one 1).isZero = false ∧ cutSmart [] ∧ cutSmart [128] ∧ ¬ cutSmart [127] ∧
      (image [100, 64, 5, 0xFF]).ends ([100, 64, 5] ++ [0xFF]) ∧
      (image [100, 64, 5, 1]).ends ([100, 64, 5] ++ encodeSmart (.one 1) ++ []) ∧
      (image [1, 2, 0x80]).ends ([] ++ encodeSmart (.one 1) ++ encodeSmart (.one 2) ++ [0x80]) := by decide +kernel
theorem witness_EchoRecord :
    (image [0x80, 0x01, 0x32]).holds (encode (.imgEcho (.two 1) (.one 50))) ∧ cutSmart [0x80] ∧
      (image [0x80]).ends [0x80] ∧ (image [7]).ends (encodeSmart (.one 7) ++ []) := by decide +kernel
theorem witness_TimesRecord :
    (image [0, 10, 1, 0]).holds (encode (.imgTimes 10 256)) ∧
      ((image [0, 10, 1]).holds (bytes16 10) ∧ (image [0, 10, 1]).remaining < 4) ∧
      (image [0]).remaining < 2 := by decide +kernel
theorem witness_FilterRecord :
    let x := fun k : PoleAt => (⟨4096, if k.last then 2 else 1⟩ : Pole)
    let bytes := encode (.imgFilterHeader 4 1 0 0 0x11) ++
      ((polePlan 4 1 0x11).flatMap fun k => encode (.imgPole (x k).phase (x k).magnitude)) ++
        (1 :: segmentBytes [(65535, 7)])
    (4 : BitVec 4).toNat ≤ 4 ∧ (1 : BitVec 4).toNat ≤ 4 ∧ (image bytes).holds bytes := by decide +kernel
/-- A filter record cut in its header, behind a pole, behind a phase, before and inside its cutoff envelope. -/
theorem witness_FilterRecord_cut :
    let head := encode (.imgFilterHeader 1 1 5 6 0)
    let body := head ++ encode (.imgPole 7 8) ++ encode (.imgPole 9 3)
    State.reset.remaining = 0 ∧
      ((image [0x11, 9]).holds [(1 : BitVec 4) ++ (1 : BitVec 4)] ∧ (image [0x11, 9]).remaining < 3) ∧
      ((image (head.take 4)).holds (((1 : BitVec 4) ++ (1 : BitVec 4)) :: bytes16 5) ∧
        (image (head.take 4)).remaining < 5) ∧
      ((image (head.take 5)).holds (((1 : BitVec 4) ++ (1 : BitVec 4)) :: bytes16 5 ++ bytes16 6) ∧
        (image (head.take 5)).remaining < 6) ∧
      (polePlan 1 1 0 = [⟨false, false, 0⟩, ⟨false, true, 0⟩] ∧
        (image (body.take 11)).holds (head ++ encode (.imgPole 7 8)) ∧ (image (body.take 11)).remaining < 12 ∧
        (image (body.take 13)).holds (head ++ encode (.imgPole 7 8) ++ bytes16 9) ∧
        (image (body.take 13)).remaining < 14) ∧
      ((5 : BitVec 16) ≠ 6 ∧ (image body).holds body ∧ (image body).remaining = body.length) ∧
      ((image (body ++ [2, 0, 1, 9])).holds (body ++ 2 :: segmentBytes [] ++ bytes16 1) ∧
        (image (body ++ [2, 0, 1, 9])).remaining < (body ++ 2 :: segmentBytes [] ++ bytes16 1).length + 2) := by
  decide +kernel
/-- R138, R146: the cut record is what `CFG.FILTER` discards. -/
theorem test_cut_filter :
    let s := after (exec .cfgFilterbody (image [0x11, 0, 5, 0, 5, 0, 0, 7, 0]))
    let u := after (exec .cfgFilter (image [0x11, 0, 5, 0, 5, 0, 0, 7, 0]))
    ((s.voiceOf 0).filterPresent, vget (s.voiceOf 0).filter.ff.first 0, s.cfg.trunc, s.cfg.pos,
        (u.voiceOf 0).filterPresent, u.warnMask) = (true, ⟨7, 0⟩, true, 9, false, 2) := by decide +kernel
theorem witness_ReservedPoleCount :
    (4 < (0x50 : Byte).toNat / 16 ∨ 4 < (0x50 : Byte).toNat % 16) ∧ (image [0x50]).holds [0x50] ∧
      (4 < (0x05 : Byte).toNat / 16 ∨ 4 < (0x05 : Byte).toNat % 16) ∧ (image [0x05]).holds [0x05] := by decide +kernel
theorem witness_FilterOrNot :
    let like := image [2, 0, 0, 0, 100, 0, 0, 0, 0, 15]
    let real := image [0x44, 0, 0, 0, 0, 0]
    State.reset.remaining = 0 ∧ (image [0]).holds [0] ∧
      (like.holds [2] ∧ (2 : Byte) ≠ 0 ∧
        exec .cfgLooksenv like = .next (like.setIo { like.io with looksEnv := true })) ∧
      (real.holds [0x44] ∧ exec .cfgLooksenv real = .next (real.setIo { real.io with looksEnv := false }) ∧
        (0x44 : Byte).toNat / 16 ≤ 4 ∧ (0x44 : Byte).toNat % 16 ≤ 4) ∧
      ((image [0x05]).holds [0x05] ∧ 4 < (0x05 : Byte).toNat % 16) := by
  refine ⟨by decide +kernel, by decide +kernel, ⟨by decide +kernel, by decide, rfl⟩,
    ⟨by decide +kernel, rfl, by decide, by decide⟩, by decide +kernel, by decide⟩
theorem witness_LooksLikeEnvelope_unwritten :
    let a := unwrittenFrom [] 1
    let b := unwrittenFrom [1] 10
    let c := unwrittenFrom [4, 0, 0x98, 0x96, 0x80] 10
    (0 < a.remaining ∧ a.img.read a.cfg.pos.toNat = none) ∧
      (10 ≤ b.remaining ∧ b.holds [1] ∧ b.img.read (b.cfg.pos.toNat + 1 + 0) = none) ∧
      (10 ≤ c.remaining ∧ c.holds (4 :: bytes32 10000000) ∧ (10000000 : Word).toInt.natAbs ≤ 10000000 ∧
        c.img.read (c.cfg.pos.toNat + 9) = none) := by decide +kernel
theorem witness_LooksLikeEnvelope :
    (image [4, 0, 0x98, 0x96, 0x80, 0, 0, 0, 0, 15]).holds [4, 0, 0x98, 0x96, 0x80, 0, 0, 0, 0, 15] ∧
      State.reset.remaining = 0 ∧
      ((image [1, 0, 0]).holds [1] ∧ (image [1, 0, 0]).remaining < 10) ∧
      ((image [5]).holds [5] ∧ 4 < (5 : Byte).toNat) := by decide +kernel
theorem witness_LoopRecord :
    (image [0, 8, 0, 16]).holds (encode (.imgLoop 8 16)) ∧ (image [0, 8, 0]).remaining < 4 := by decide +kernel
theorem witness_SlotRecord :
    State.reset.remaining = 0 ∧ (image [0]).holds [0] ∧ ((image [1]).holds [1] ∧ (1 : Byte) ≠ 0) := by decide +kernel

/-- The voice of program P3. -/
def squareVoice : Voice := { Voice.blank with
  frequency := ⟨.square, 2750, 2750, []⟩, amplitude := ⟨.off, 16384, 16384, []⟩
  partials := [⟨100, 0, 0⟩], duration := 10 }

/-- The same with a gate, an echo and a filter that has a modulated pole and a cutoff envelope. -/
def fullVoice : Voice := { squareVoice with
  gate := ⟨true, ⟨.square, 0, 512, [⟨0, 256⟩]⟩, Envelope.blank⟩
  echoDelay := 300, echoMix := 50, filterPresent := true
  filter := { headerFilter 1 1 256 256 0x10 with
    ff := { Channel.blank with count := 1 }
    fb := { Channel.blank with count := 1, last := vset Channel.blank.last 0 ⟨1, 2⟩ }
    cutoff := { Envelope.blank with segs := [⟨65535, 65535⟩] } } }

/-- The bytes the writer writes for a voice. -/
def bytesOf (V : Voice) : List Byte :=
  match writeVoice V with
  | .ok bs => bs
  | .error _ => []

theorem witness_VoiceRoundTrip :
    (squareVoice.carried = true ∧ writeVoice squareVoice = .ok (squareBytes ++ [0]) ∧
      (image (squareBytes ++ [0])).holds (squareBytes ++ [0]) ∧ (image (squareBytes ++ [0])).cfg.trunc = false) ∧
    (fullVoice.carried = true ∧ writeVoice fullVoice = .ok (bytesOf fullVoice) ∧
      (image (bytesOf fullVoice)).holds (bytesOf fullVoice)) := by
  refine ⟨⟨by decide +kernel, by decide +kernel, by decide +kernel, by decide +kernel⟩,
    by decide +kernel, by decide +kernel, by decide +kernel⟩
theorem witness_LoadCompletes :
    (image squarePatch).written 0 ∧ (image (List.replicate 14 0)).nibblesLegal ∧ State.reset.written 0 ∧
      State.reset.cfg.len = 0 := by decide +kernel
theorem witness_CommandLoad :
    (image squarePatch).acceptsWork = true ∧ (image squarePatch).written 0 ∧
      ((image (List.replicate 14 0)).acceptsWork = true ∧ (image (List.replicate 14 0)).nibblesLegal) := by
  decide +kernel
theorem witness_PatchRoundTrip :
    let c := { State.reset.cfg with slot := vset State.reset.cfg.slot 0 ⟨true, squareVoice⟩ }
    let s := image squarePatch
    c.carried = true ∧ writePatch c = .ok squarePatch ∧ s.acceptsWork = true ∧
      s.cfg.len.toNat = squarePatch.length ∧ (∀ k < squarePatch.length, s.img.read k = squarePatch[k]?) := by
  refine ⟨by decide +kernel, by decide +kernel, by decide +kernel, by decide +kernel, by decide +kernel⟩
theorem witness_CommandRender :
    State.reset.acceptsWork = true ∧ (voiced fun _ => squareVoice).acceptsWork = true ∧
      (voiced fun _ => squareVoice).cfg.legal = true ∧
      (voiced fun _ => { squareVoice with partials := [⟨0, 0, 0⟩] }).cfg.legal = false := by decide +kernel
/-- R352: a code that is no command's, and a command that the state does not take. -/
theorem test_refused_command :
    State.reset.hostCommand 0x04 = State.reset ∧
      (State.reset.inState .error).hostCommand 0x02 = State.reset.inState .error ∧
      ((State.reset.inState .error).hostCommand 0x03).pending = some .operation := by decide +kernel

/-- A render of 22 samples, the voice itself short. -/
def rendered : State := after (finish (cmdRender allShort (voiced fun V => { V with duration := 1 })))

theorem witness_OutputClipped :
    (voiced fun V => { V with duration := 1 }).acceptsWork = true ∧
      finish (cmdRender allShort (voiced fun V => { V with duration := 1 })) = .next rendered ∧
      rendered.seq.state = .done ∧ 21 < rendered.outLen.toNat :=
  ⟨by decide +kernel, rfl, by decide +kernel, by decide +kernel⟩
theorem witness_RenderDependsOnConfiguration :
    let s := voiced fun V => { V with duration := 1 }
    let u := ((s.setVb ⟨[9], 1⟩).setPool [4]).setGate ⟨7, true, 7⟩
    u ≠ s ∧ s.acceptsWork = true ∧ u.acceptsWork = true ∧ s.cfg.slot = u.cfg.slot ∧
      s.cfg.loopBegin = u.cfg.loopBegin ∧ s.cfg.loopEnd = u.cfg.loopEnd ∧ s.cfg.loopCount = u.cfg.loopCount ∧
      rendered.status.done = true ∧ 21 < rendered.outLen.toNat := by decide +kernel
theorem witness_CommandResetAndRefused :
    let failed := (State.reset.inState .error).setStatus ⟨false, false, true, false⟩
    let busy := (State.reset.inState .loading).setStatus ⟨true, false, false, false⟩
    failed.acceptsReset = true ∧ failed.acceptsWork = false ∧ failed.seq.state = .error ∧
      failed.status.busy = false ∧ busy.acceptsReset = false ∧ busy.acceptsWork = false ∧ busy.status.busy = true ∧
      (State.reset.inState .loading).seq.state = .loading ∧ (State.reset.hostCommand 0x02).pending ≠ none := by
  decide +kernel
/-- An image that ends inside the row at a place. -/
def cutAt (place : Place) (bs : List Byte) : State := (image bs).setPending (some place)

theorem witness_RecordRows :
    5 ≤ (5 : Byte).toNat ∧
      ((cutAt .waveform []).pending = some .waveform ∧ (cutAt .waveform []).remaining = 0) ∧
      ((cutAt .slot []).pending = some .slot ∧ (cutAt .slot []).remaining = 0) ∧
      ((cutAt .pair []).pending = some .pair ∧ (cutAt .pair []).remaining = 0) ∧
      ((cutAt .cutoff []).pending = some .cutoff ∧ (cutAt .cutoff []).remaining = 0) ∧
      ((cutAt .segment [1]).remaining < 2 ∧ (cutAt .segment [1, 2, 3]).holds (bytes16 0x0102) ∧
        (cutAt .segment [1, 2, 3]).remaining < 4) ∧
      (cutAt .envHeader []).remaining = 0 ∧
      ((cutAt .envHeader [1, 0, 0, 0]).holds [1] ∧ (cutAt .envHeader [1, 0, 0, 0]).remaining < 5) ∧
      ((cutAt .envHeader [1, 0, 0, 0, 9, 8]).holds (1 :: bytes32 9) ∧
        (cutAt .envHeader [1, 0, 0, 0, 9, 8]).remaining < 9) ∧
      ((cutAt .envHeader [1, 0, 0, 0, 9, 0, 0, 0, 8]).holds (1 :: bytes32 9 ++ bytes32 8) ∧
        (cutAt .envHeader [1, 0, 0, 0, 9, 0, 0, 0, 8]).remaining < 10) := by decide +kernel
theorem witness_FieldRows :
    (State.reset.voiceOf State.reset.ldr.slot).partials.length < 10 ∧
      10 ≤ ((voiced fun V => { V with partials := List.replicate 10 ⟨1, 0, 0⟩ }).voiceOf 0).partials.length ∧
      (cutAt .times [1, 2, 3]).remaining < 4 ∧ (cutAt .loop []).remaining < 4 ∧ cutSmart [0x80] ∧
      (cutAt .usmart [0x80]).ends [0x80] ∧ (cutAt .ssmart []).ends [] ∧
      (cutAt .echo [5]).ends (encodeSmart (.one 5) ++ []) ∧ (cutAt .oscillator []).ends [] ∧
      (Smart.one 5).isZero = false ∧ (cutAt .oscillator [5, 0x80]).ends (encodeSmart (.one 5) ++ [0x80]) ∧
      (cutAt .oscillator [5, 6]).ends (encodeSmart (.one 5) ++ encodeSmart (.one 6) ++ []) := by
  decide +kernel
theorem witness_FilterRows :
    let s := State.reset.setLdr ⟨0, 0, 0, polePlan 1 0 0⟩
    (4 : BitVec 4).toNat ≤ 4 ∧ (0 : BitVec 4).toNat ≤ 4 ∧ State.reset.ldr.plan = [] ∧
      s.ldr.plan = ⟨false, false, 0⟩ :: [] ∧ maskBit s.ldr.mask false 0 = false ∧
      (cutAt .pole [1]).remaining < 2 ∧ (cutAt .pole [1, 2]).holds (bytes16 0x0102) ∧
      (cutAt .pole [1, 2]).remaining < 4 ∧ (cutAt .filter []).remaining = 0 ∧
      ((cutAt .filter [0x51]).holds [0x51] ∧ (cutAt .filter [0x51]).remaining < 6 ∧ 4 < (0x51 : Byte).toNat / 16) ∧
      ((2 : BitVec 4) ≠ 0 ∧ (cutAt .filter [0x21]).holds [(2 : BitVec 4) ++ (1 : BitVec 4)] ∧
        (cutAt .filter [0x21]).remaining < 3) ∧
      ((cutAt .filter [0x21, 0, 9, 7]).holds (((2 : BitVec 4) ++ (1 : BitVec 4)) :: bytes16 9) ∧
        (cutAt .filter [0x21, 0, 9, 7]).remaining < 5) ∧
      ((cutAt .filter [0x21, 0, 9, 0, 7]).holds (((2 : BitVec 4) ++ (1 : BitVec 4)) :: bytes16 9 ++ bytes16 7) ∧
        (cutAt .filter [0x21, 0, 9, 0, 7]).remaining < 6) := by decide +kernel
theorem witness_InvariantKept : State.reset.Inv ∧ step State.reset = .next State.reset := by
  refine ⟨⟨rfl, .inl rfl, rfl, by decide, by decide, by decide, by decide, by decide, fun v => ?_, by decide⟩, rfl⟩
  refine ⟨?_, ?_, ?_⟩ <;> revert v <;> decide +kernel
theorem witness_WhoWritesWhat :
    exec .genOff State.reset = .next (State.reset.latchSample 0) ∧ Instr.genOff ≠ .cmdReset ∧
      Instr.genOff ≠ .cmdLoad ∧ Instr.genOff ≠ .cmdRender ∧ State.reset.seq.state ≠ .loading :=
  ⟨rfl, by decide, by decide, by decide, by decide⟩

end Sys2Proof.Tests
end

section
/-! The decoder on encoded instructions (`30_encoding.md` R90 to R112): each kind of field is read back from its bytes,
then each row. -/

namespace Sys2Proof

/-! ### Fields -/

/-- A 16-bit field is read back from its bytes. -/
@[simp] theorem be16_bytes16 (v : BitVec 16) : be16 (v.extractLsb' 8 8) (v.extractLsb' 0 8) = v :=
  (BitVec.extractLsb'_append_extractLsb'_eq_extractLsb' rfl).trans BitVec.extractLsb'_eq_self

/-- A 32-bit field is read back from its bytes. -/
@[simp] theorem be32_bytes32 (v : Word) :
    be32 (v.extractLsb' 24 8) (v.extractLsb' 16 8) (v.extractLsb' 8 8) (v.extractLsb' 0 8) = v := by
  have hi : be16 (v.extractLsb' 24 8) (v.extractLsb' 16 8) = v.extractLsb' 16 16 :=
    BitVec.extractLsb'_append_extractLsb'_eq_extractLsb' rfl
  have lo : be16 (v.extractLsb' 8 8) (v.extractLsb' 0 8) = v.extractLsb' 0 16 :=
    BitVec.extractLsb'_append_extractLsb'_eq_extractLsb' rfl
  rw [be32, hi, lo]
  exact (BitVec.extractLsb'_append_extractLsb'_eq_extractLsb' rfl).trans BitVec.extractLsb'_eq_self

/-- A smart integer is read back from its bytes, whatever follows: the top bit of the first byte tells the form
(`30_encoding.md` R101, R102, R111). -/
@[simp] theorem decodeSmart_encodeSmart (x : Smart) (rest : List Byte) :
    decodeSmart (encodeSmart x ++ rest) = some (x, rest) := by
  cases x with
  | one v =>
    have flag : (0#1 ++ v).msb = false := BitVec.msb_append
    have value : (0#1 ++ v).extractLsb' 0 7 = v := BitVec.extractLsb'_append_eq_right
    simp [encodeSmart, decodeSmart, flag, value]
  | two v =>
    have flag : (1#1 ++ v.extractLsb' 8 7).msb = true := BitVec.msb_append
    have high : (1#1 ++ v.extractLsb' 8 7).extractLsb' 0 7 = v.extractLsb' 8 7 :=
      BitVec.extractLsb'_append_eq_right
    have value : v.extractLsb' 8 7 ++ v.extractLsb' 0 8 = v :=
      (BitVec.extractLsb'_append_extractLsb'_eq_extractLsb' rfl).trans BitVec.extractLsb'_eq_self
    simp [encodeSmart, decodeSmart, flag, high, value]

/-- Two pole counts packed in one byte are 0 only together (`30_encoding.md` R106, R110 (e)). -/
theorem packedCounts_eq_zero (c0 c1 : BitVec 4) : (c0 ++ c1 : Byte) = 0#8 ↔ c0 = 0 ∧ c1 = 0 := by
  revert c0 c1; decide

/-- A byte from 5 on is the reserved waveform row (`30_encoding.md` R105). -/
theorem waveformRow_reserved {w : Byte} (h : 5 ≤ w.toNat) : waveformRow w = .wfReservedAsOff w := by
  have ne (k : Byte) (hk : k.toNat < 5) : w ≠ k := fun e => by subst e; omega
  rw [waveformRow, if_neg (ne 0 (by decide)), if_neg (ne 1 (by decide)), if_neg (ne 2 (by decide)),
    if_neg (ne 3 (by decide)), if_neg (ne 4 (by decide))]

/-! ### Rows -/

/-- An operation is one byte, the code that names it, and consumes it (`30_encoding.md` R112). -/
theorem operation_code {i : Instr} (h : placeOf i = .operation) :
    ∃ code, encode i = [code] ∧ operationOf code = some i ∧ consumed i = 1 := by
  cases i <;> cases h <;> exact ⟨_, rfl, rfl, rfl⟩

/-- The rows of the image. -/
theorem decodeRow_encode_record (i : Instr) (rest : List Byte) (wf : i.wellFormed = true)
    (h : placeOf i ≠ .operation) :
    decodeRow (placeOf i) (encode i ++ rest) = some (i, (encode i ++ rest).drop (consumed i)) := by
  cases i
  case wfOff | wfSquare | wfSine | wfSaw | wfNoise => rfl
  case wfReservedAsOff w =>
    have hw : 5 ≤ w.toNat := of_decide_eq_true wf
    simp [placeOf, encode, consumed, decodeRow, waveformRow_reserved hw]
  case imgSlotEmpty | imgPairAbsent | imgFilterAbsent | imgCutoffEnv => rfl
  case imgSlotVoice v | imgPairPresent v =>
    have hv : v ≠ 0#8 := by simpa [Instr.wellFormed] using wf
    simp [placeOf, encode, consumed, decodeRow, hv]
  case imgEnvHeader | imgSegment | imgTimes | imgPole | imgLoop =>
    simp [placeOf, encode, consumed, decodeRow, bytes16, bytes32]
  case usmart1 | usmart2 | ssmart1 | ssmart2 | imgEcho =>
    simp [placeOf, encode, consumed, decodeRow, decodeEcho]
  case imgPartial a p d =>
    have ha : a.isZero = false := by simpa [Instr.wellFormed] using wf
    simp [placeOf, encode, consumed, decodeRow, decodeOscillator, ha]
  case imgPartialEnd a =>
    have ha : a.isZero = true := wf
    simp [placeOf, encode, consumed, decodeRow, decodeOscillator, ha]
  case imgFilterHeader c0 c1 gain0 gain1 mask =>
    have hc : (c0 ++ c1 : Byte) ≠ 0#8 := by
      rw [Ne, packedCounts_eq_zero]
      have counts : c0 ≠ 0 ∨ c1 ≠ 0 := by simpa [Instr.wellFormed] using wf
      exact not_and_or.2 counts
    have h0 : (c0 ++ c1 : Byte).extractLsb' 4 4 = c0 := BitVec.extractLsb'_append_eq_left
    have h1 : (c0 ++ c1 : Byte).extractLsb' 0 4 = c1 := BitVec.extractLsb'_append_eq_right
    simp [placeOf, encode, consumed, decodeRow, bytes16, hc, h0, h1]
  all_goals exact absurd rfl h

/-- Decoding the encoding of a well-formed instruction gives it back, with the bytes its row does not consume. -/
theorem decode_encode (i : Instr) (rest : List Byte) (wf : i.wellFormed = true) :
    decode (placeOf i) (encode i ++ rest) = .ok (i, (encode i ++ rest).drop (consumed i)) := by
  have row : decodeRow (placeOf i) (encode i ++ rest) = some (i, (encode i ++ rest).drop (consumed i)) := by
    by_cases h : placeOf i = .operation
    · obtain ⟨code, bytes, name, length⟩ := operation_code h
      simp [h, bytes, name, length, decodeRow]
    · exact decodeRow_encode_record i rest wf h
  simp [decode, row]

end Sys2Proof
end

section
/-! What stands at the sequencer's place, and the one step that runs it (`00_scope.md` R7, R8; log 1, log 2). -/

namespace Sys2Proof.Machine

/-! ### The bytes at a place -/

/-- Bytes that have been written from an address on are what the image shows there, before anything else. -/
theorem imageBytes_of_bytes (m : Image) (a n : Nat) (bs : List Byte) (hn : bs.length ≤ n)
    (h : ∀ k < bs.length, m.read (a + k) = bs[k]?) :
    imageBytes m a n = bs ++ imageBytes m (a + bs.length) (n - bs.length) := by
  induction bs generalizing a n with
  | nil => simp
  | cons b rest ih =>
    cases n with
    | zero => simp at hn
    | succ n =>
      have head : m.read a = some b := by simpa using h 0 (by simp)
      have tail := ih (a + 1) n (by simpa using hn) fun k hk => by
        simpa [Nat.add_assoc, Nat.add_comm 1] using h (k + 1) (by simpa using hk)
      simp [imageBytes, head, tail, Nat.add_assoc, Nat.add_comm 1]

/-- At the place of operations stands the command register. -/
@[simp] theorem fetchBytes_operation (s : State) : fetchBytes .operation s = [s.cmd] := rfl

/-- A row that stands whole at the cursor is at the head of the bytes at its place (`20_memory.md` R60). -/
theorem fetchBytes_of_holds {s : State} {i : Instr} (hp : placeOf i ≠ .operation) (h : s.holds (encode i)) :
    ∃ rest, fetchBytes (placeOf i) s = encode i ++ rest := by
  obtain ⟨fits, written⟩ := h
  obtain ⟨-, short, -⟩ := Laws.encodeLength_all i
  have room : (encode i).length ≤ min longestRow s.remaining := by
    unfold State.remaining
    omega
  exact ⟨_, by rw [fetchBytes, if_neg hp, imageBytes_of_bytes _ _ _ _ room written]⟩

/-! ### The step -/

/-- Without a place the sequencer rests (`60_exceptions.md` R369). -/
theorem step_of_rest {s : State} (h : s.pending = none) : step s = .next s := by
  simp [step, h]

section
variable {s : State} {place : Place}

/-- A row that decodes is run, with the place taken. -/
theorem step_of_decoded {i : Instr} {rest : List Byte} (hp : s.pending = some place)
    (h : decode place (fetchBytes place s) = .ok (i, rest)) : step s = exec i (s.setPending none) := by
  simp [step, hp, h]

/-- A row that the end of the image cuts is run as the cut row (`20_memory.md` R63). -/
theorem step_of_cut {p : Place} (hp : s.pending = some place)
    (h : decode place (fetchBytes place s) = .error (.short p)) :
    step s = execCutRow place (s.setPending none) := by
  simp [step, hp, h]

/-- A code that names nothing is refused by name (`93_implementation_defined.md` I14). -/
theorem step_of_unassigned {code : Byte} (hp : s.pending = some place)
    (h : decode place (fetchBytes place s) = .error (.unassigned code)) :
    step s = .refused (.unassignedCode code) := by
  simp [step, hp, h]

end

/-- A well-formed instruction whose bytes are at the head of those at its place is run. -/
theorem step_of_encoded {s : State} {i : Instr} {rest : List Byte} (wf : i.wellFormed = true)
    (hp : s.pending = some (placeOf i)) (h : fetchBytes (placeOf i) s = encode i ++ rest) :
    step s = exec i (s.setPending none) :=
  step_of_decoded hp (by rw [h]; exact decode_encode i rest wf)

/-! ### The statements about the step -/

/-- Settles O4: the four outcomes of the step, one for each answer of the decoder and one for no place. -/
theorem stepRunsDecoded : Obligations.StepRunsDecoded := by
  intro s
  refine ⟨step_of_rest, fun place hp => ⟨?_, ?_, ?_⟩⟩
  · exact fun i rest => step_of_decoded hp
  · exact fun p => step_of_cut hp
  · exact fun code => step_of_unassigned hp

/-- Settles O5: at either place the bytes of the instruction come first, and the decoder gives it back from them. -/
theorem stepRunsEncoded : Obligations.StepRunsEncoded := by
  intro s i wf hp stands
  by_cases op : placeOf i = .operation
  · have bytes : encode i = [s.cmd] := by simpa [op] using stands
    exact step_of_encoded (rest := []) wf hp (by simp [op, bytes])
  · have bytes : s.holds (encode i) := by simpa only [if_neg op] using stands
    obtain ⟨rest, fetched⟩ := fetchBytes_of_holds op bytes
    exact step_of_encoded wf hp fetched

end Sys2Proof.Machine
end

section
/-! The clip of `VB` and of `MB` (`00_scope.md` R12, `43_voice_stages.md` R248, `45_mixer.md` R307). -/

namespace Sys2Proof.Machine

/-- A loop leaves its last index in `SEQ.n`, and nothing else (`10_state.md` R25; log 15). -/
theorem State.afterLoop_eq_setSeq (s : State) (start count : Nat) :
    ∃ n : Word, s.afterLoop start count = s.setSeq { s.seq with n := n } := by
  unfold State.afterLoop
  split
  · exact ⟨s.seq.n, rfl⟩
  · exact ⟨_, rfl⟩

/-- The clip keeps the array, clamps the words below `n` and leaves every other word alone. -/
theorem Buffer.clip_clamps (b : Buffer) (n : Nat) :
    (b.clip n).array = b.array ∧
      ∀ j, ((b.clip n).read j).map BitVec.toInt =
        if j < n then (b.read j).map fun x => max (-32768) (min 32767 x.toInt)
        else (b.read j).map BitVec.toInt := by
  refine ⟨rfl, fun j => ?_⟩
  rw [Buffer.read_clip]
  split
  · rw [Option.map_map]
    exact congrArg (Option.map · _) (funext clip16_toInt)
  · rfl

/-- `VOICE.CLIP` clips `VB` and moves the sequencer's stage and sample index. -/
theorem State.voiceClip_eq (s : State) : ∃ n : Word,
    s.voiceClip = (s.setSeq { s.seq with stage := .clip, n := n }).setVb (s.vb.clip s.vs.count.toNat) := by
  obtain ⟨n, h⟩ := ((s.atStage .clip).setVb (s.vb.clip s.vs.count.toNat)).afterLoop_eq_setSeq 0 s.vs.count.toNat
  exact ⟨n, h⟩

/-- `MIX.CLIP` clips `MB` and moves the sequencer's stage and sample index. -/
theorem State.mixClip_eq (s : State) : ∃ n : Word,
    s.mixClip = (s.setSeq { s.seq with stage := .finalClip, n := n }).setMb (s.mb.clip s.mix.total.toNat) := by
  obtain ⟨n, h⟩ := ((s.atStage .finalClip).setMb (s.mb.clip s.mix.total.toNat)).afterLoop_eq_setSeq 0
    s.mix.total.toNat
  exact ⟨n, h⟩

/-- `VOICE.CLIP` completes where `VB` covers the voice's samples. -/
theorem exec_voiceClip_of_covered {s : State} (h : s.vs.count.toNat ≤ s.vb.words.length) :
    exec .voiceClip s = .next s.voiceClip :=
  needVb_eq_next.2 ⟨decide_eq_true h, rfl⟩

/-- `VOICE.CLIP` faults where `VB` is shorter (`10_state.md` R50; log 7). -/
theorem exec_voiceClip_of_short {s : State} (h : s.vb.words.length < s.vs.count.toNat) :
    exec .voiceClip s = .fault .vbNoValue := by
  have uncovered : s.vb.covers s.vs.count.toNat = false := decide_eq_false (Nat.not_le.2 h)
  simp [exec, execVoiceClip, needVb, uncovered]

/-- `MIX.CLIP` completes where `MB` covers the total. -/
theorem exec_mixClip_of_covered {s : State} (h : s.mix.total.toNat ≤ s.mb.words.length) :
    exec .mixClip s = .next s.mixClip :=
  needMb_eq_next.2 ⟨decide_eq_true h, rfl⟩

/-- `MIX.CLIP` faults where `MB` is shorter (`10_state.md` R50; log 7). -/
theorem exec_mixClip_of_short {s : State} (h : s.mb.words.length < s.mix.total.toNat) :
    exec .mixClip s = .fault .mbNoValue := by
  have uncovered : s.mb.covers s.mix.total.toNat = false := decide_eq_false (Nat.not_le.2 h)
  simp [exec, execMixClip, needMb, uncovered]

/-- Settles O20: each clip is `Buffer.clip` on its own buffer, behind the test that the buffer covers the length. -/
theorem clips : Obligations.Clips := by
  intro s clamped
  refine ⟨fun covered => ?_, exec_voiceClip_of_short, fun covered => ?_, exec_mixClip_of_short⟩
  · obtain ⟨n, result⟩ := s.voiceClip_eq
    refine ⟨_, exec_voiceClip_of_covered covered, ?_⟩
    rw [result]
    exact ⟨rfl, s.vb.clip_clamps _⟩
  · obtain ⟨n, result⟩ := s.mixClip_eq
    refine ⟨_, exec_mixClip_of_covered covered, ?_⟩
    rw [result]
    exact ⟨rfl, s.mb.clip_clamps _⟩

end Sys2Proof.Machine
end

section
/-! The generators inside the amplitude (`42_oscillator_lfo.md` R195 to R197). -/

namespace Sys2Proof.Machine

/-- The contract of the sine table (`10_state.md` R43). -/
theorem sine_bounds (p : Nat) : -16384 ≤ Config.params.sine p ∧ Config.params.sine p ≤ 16384 := by
  simp only [Config.params, Config.boundSine]
  omega

/-- The contract of the noise table (`10_state.md` R44). -/
theorem noise_cases (j : Nat) : Config.params.noise j = 1 ∨ Config.params.noise j = -1 := by
  simp only [Config.params]
  split
  · exact .inl rfl
  · exact .inr rfl

/-- A masked phase lies in one cycle (`42_oscillator_lfo.md` R192). -/
theorem maskedPhase_le (phase : Word) : maskedPhase phase ≤ 32767 := by
  rw [maskedPhase, BitVec.toNat_and]
  exact Nat.and_le_right

/-- The product of a table value and an amplitude, where it fits in an `s32`. -/
theorem toInt_wrap32_mul {x : Int} {a : Word} (hl : -2147483648 ≤ x * a.toInt) (hu : x * a.toInt ≤ 2147483647) :
    (wrap32 x * a).toInt = x * a.toInt := by
  rw [← toInt_wrap32 hl hu, wrap32_mul, wrap32_toInt]

/-- A factor of magnitude at most `m` scales the magnitude by at most `m`. -/
theorem natAbs_mul_bounds {x m : Int} (a : Int) (hl : -m ≤ x) (hu : x ≤ m) :
    -(m * a.natAbs) ≤ x * a ∧ x * a ≤ m * a.natAbs := by
  rw [← abs_le, abs_mul, Int.natCast_natAbs]
  exact mul_le_mul_of_nonneg_right (abs_le.2 ⟨hl, hu⟩) (abs_nonneg a)

/-- The sine stays inside an amplitude below `2^17`. -/
theorem genSine_natAbs_le {a : Word} (phase : Word) (hl : -131072 < a.toInt) (hu : a.toInt < 131072) :
    (genSine Config.params a phase).toInt.natAbs ≤ a.toInt.natAbs := by
  obtain ⟨lower, upper⟩ := sine_bounds (maskedPhase phase)
  obtain ⟨low, high⟩ := natAbs_mul_bounds a.toInt lower upper
  rw [genSine, asr_toInt, toInt_wrap32_mul (by omega) (by omega)]
  omega

/-- The saw stays inside an amplitude below `2^16`: its ramp covers `[0, 2 * a)`. -/
theorem genSaw_natAbs_le {a : Word} (phase : Word) (hl : -65536 < a.toInt) (hu : a.toInt < 65536) :
    (genSaw a phase).toInt.natAbs ≤ a.toInt.natAbs := by
  have cycle := maskedPhase_le phase
  -- the ramp less one amplitude, scaled: `|p - 16384| ≤ 16384`
  obtain ⟨low, high⟩ := natAbs_mul_bounds (x := (maskedPhase phase : Int) - 16384) (m := 16384) a.toInt (by omega)
    (by omega)
  rw [Int.sub_mul] at low high
  have ramp :
      (asr (BitVec.ofNat 32 (maskedPhase phase) * a) 14).toInt = (maskedPhase phase : Int) * a.toInt / 2 ^ 14 := by
    rw [asr_toInt, ← BitVec.ofInt_natCast]
    exact congrArg (· / _) (toInt_wrap32_mul (by omega) (by omega))
  rw [genSaw, BitVec.toInt_sub, ramp, Int.bmod_eq_of_le (by omega) (by omega)]
  omega

/-- The noise is the amplitude or its negation. -/
theorem genNoise_toInt {a : Word} (phase : Word) (h : -2147483648 < a.toInt) :
    (genNoise Config.params a phase).toInt = a.toInt ∨ (genNoise Config.params a phase).toInt = -a.toInt := by
  have below := a.toInt_lt
  rcases noise_cases (maskedPhase phase / Config.noiseDiv) with one | minus
  · left
    rw [genNoise, one, toInt_wrap32_mul (by omega) (by omega), Int.one_mul]
  · right
    rw [genNoise, minus, toInt_wrap32_mul (by omega) (by omega), Int.neg_one_mul]

/-- Settles O11: each generator completes with its value latched, and the value is inside the amplitude. -/
theorem generatorsWithinAmplitude : Obligations.GeneratorsWithinAmplitude := by
  intro s
  refine ⟨fun hl hu => ⟨_, rfl, genSine_natAbs_le _ hl hu⟩, fun hl hu => ⟨_, rfl, genSaw_natAbs_le _ hl hu⟩,
    fun h => ⟨_, rfl, genNoise_toInt _ h⟩⟩

end Sys2Proof.Machine
end

section
/-! What an operation may write (`10_state.md` R25, R39; `20_memory.md` R72; `60_exceptions.md` R360), in three nested
projections of the state: what only a command and a fatal exception write, what no operation of the render writes, and
what no operation of one voice writes. -/

namespace Sys2Proof.Machine

/-! ### Projections -/

/-- What only a command, and the entry of a fatal exception, write: the image, `SEQ.state`, the status bits that follow
it, and `ERR.cause`. -/
structure Control where
  img : Image
  state : SeqState
  busy : Bool
  done : Bool
  error : Bool
  errCause : Byte

/-- What no operation of the render writes: with `Control` the configuration and the warnings. -/
structure Outer where
  control : Control
  cfg : Cfg
  warn : Bool
  warnCount : BitVec 16
  warnMask : Byte

/-- What no operation of one voice writes: with `Outer` the mixer registers, the output length and how many words the
mix buffer has. -/
structure Frame where
  outer : Outer
  mix : MixRegs
  outLen : Word
  mbLength : Nat

def State.control (s : State) : Control :=
  ⟨s.img, s.seq.state, s.status.busy, s.status.done, s.status.error, s.errCause⟩

def State.outer (s : State) : Outer := ⟨s.control, s.cfg, s.status.warn, s.warnCount, s.warnMask⟩

def State.frame (s : State) : Frame := ⟨s.outer, s.mix, s.outLen, s.mb.words.length⟩

theorem control_of_outer {s t : State} (h : t.outer = s.outer) : t.control = s.control := congrArg Outer.control h

theorem outer_of_frame {s t : State} (h : t.frame = s.frame) : t.outer = s.outer := congrArg Frame.outer h

/-! ### Updates outside the frame -/

section
variable (s : State)

@[simp] theorem State.frame_setEnv (x : EnvBank) : (s.setEnv x).frame = s.frame := rfl
@[simp] theorem State.frame_setOsc (x : Osc) : (s.setOsc x).frame = s.frame := rfl
@[simp] theorem State.frame_setGate (x : GateRegs) : (s.setGate x).frame = s.frame := rfl
@[simp] theorem State.frame_setFlt (x : FltRegs) : (s.setFlt x).frame = s.frame := rfl
@[simp] theorem State.frame_setVs (x : VoiceRegs) : (s.setVs x).frame = s.frame := rfl
@[simp] theorem State.frame_setVb (x : Buffer) : (s.setVb x).frame = s.frame := rfl
@[simp] theorem State.frame_setPool (x : List Nat) : (s.setPool x).frame = s.frame := rfl
@[simp] theorem State.frame_setIo (x : Ports) : (s.setIo x).frame = s.frame := rfl
@[simp] theorem State.frame_atStage (x : Stage) : (s.atStage x).frame = s.frame := rfl
@[simp] theorem State.frame_atN (n : Nat) : (s.atN n).frame = s.frame := rfl
@[simp] theorem State.frame_atI (i : Fin 10) : (s.atI i).frame = s.frame := rfl
@[simp] theorem State.frame_atVoice (v : Fin 10) : (s.atVoice v).frame = s.frame := rfl
@[simp] theorem State.frame_setEnvRegs (e : Role) (x : EnvRegs) : (s.setEnvRegs e x).frame = s.frame := rfl
@[simp] theorem State.frame_latchSample (x : Word) : (s.latchSample x).frame = s.frame := rfl

@[simp] theorem State.frame_afterLoop (start count : Nat) : (s.afterLoop start count).frame = s.frame := by
  unfold State.afterLoop
  split <;> rfl

/-- A mix buffer of the same length is inside the frame. -/
theorem State.frame_setMb {b : Buffer} (h : b.words.length = s.mb.words.length) : (s.setMb b).frame = s.frame := by
  simp only [State.frame, State.setMb_mb, h]
  rfl

end

/-! ### Loops and choices -/

/-- An ascending loop keeps every quantity that its body keeps. -/
theorem forUp_const {σ β : Type} (f : σ → β) {body : Nat → σ → σ} (h : ∀ n t, f (body n t) = f t) (start count : Nat)
    (s : σ) : f (forUp body start count s) = f s :=
  forUp_keeps (fun _ t => f t = f s) rfl fun n t _ _ ht => (h n t).trans ht

/-- A descending loop keeps every quantity that its body keeps. -/
theorem forDown_const {σ β : Type} (f : σ → β) {body : Nat → σ → σ} (h : ∀ n t, f (body n t) = f t) (start count : Nat)
    (s : σ) : f (forDown body start count s) = f s := by
  induction count generalizing s with
  | zero => rfl
  | succ count ih => exact (ih _).trans (h _ s)

/-- A fold keeps every quantity that its step keeps. -/
theorem foldl_const {σ α β : Type} (f : σ → β) {body : σ → α → σ} (h : ∀ t a, f (body t a) = f t) (l : List α) (s : σ) :
    f (l.foldl body s) = f s := by
  induction l generalizing s with
  | nil => rfl
  | cons a rest ih => exact (ih _).trans (h s a)

/-- A choice keeps what both its ways keep. -/
theorem ite_const {σ β : Type} (f : σ → β) {c : Prop} [Decidable c] {x y : σ} {b : β} (hx : f x = b) (hy : f y = b) :
    f (if c then x else y) = b := by
  split
  · exact hx
  · exact hy

/-! ### The operations of one voice -/

section
variable (P : Params) (s : State)

@[simp] theorem State.frame_envReset (e : Role) : (s.envReset e).frame = s.frame := rfl
@[simp] theorem State.frame_envEval (e : Role) (period : Word) : (s.envEval e period).2.frame = s.frame := rfl
@[simp] theorem State.frame_lfoVib (f : Word) : (s.lfoVib P f).2.frame = s.frame := rfl
@[simp] theorem State.frame_lfoTrem (a : Word) : (s.lfoTrem P a).2.frame = s.frame := rfl
@[simp] theorem State.frame_fltCoef : (s.fltCoef P).frame = s.frame := rfl
@[simp] theorem State.frame_fltStep (n : Nat) : (s.fltStep P n).frame = s.frame := rfl
@[simp] theorem State.frame_releaseVb : (s.releaseVb P).frame = s.frame := rfl

@[simp] theorem State.frame_oscPartial (i : Fin 10) (f a : Word) : (s.oscPartial P i f a).frame = s.frame := by
  unfold State.oscPartial
  dsimp only
  split <;> simp

@[simp] theorem State.frame_oscSample : (s.oscSample P).frame = s.frame := by
  refine (foldl_const State.frame (fun t i => by simp) _ _).trans ?_
  split <;> split <;> simp

@[simp] theorem State.frame_voiceSynth : (s.voiceSynth P).frame = s.frame :=
  forUp_const State.frame (fun n t => by simp) _ _ _

@[simp] theorem State.frame_setupRest : (s.setupRest P).frame = s.frame := by
  unfold State.setupRest
  dsimp only
  split <;> split <;> simp

@[simp] theorem State.frame_gateInit : (s.gateInit P).frame = s.frame := by simp [State.gateInit]

@[simp] theorem State.frame_gateStep : (s.gateStep P).frame = s.frame := by
  unfold State.gateStep
  exact ite_const State.frame (by simp) (by simp)

@[simp] theorem State.frame_gateStage : (s.gateStage P).frame = s.frame :=
  forUp_const State.frame (fun n t => by simp) _ _ _

@[simp] theorem State.frame_echoApply : s.echoApply.frame = s.frame := State.frame_afterLoop _ _ _

@[simp] theorem State.frame_fltSample (n : Nat) : (s.fltSample P n).frame = s.frame := by
  unfold State.fltSample
  dsimp only
  split <;> split <;> simp

@[simp] theorem State.frame_fltApply : (s.fltApply P).frame = s.frame :=
  (forUp_const State.frame (fun n t => by simp) _ _ _).trans (ite_const _ rfl rfl)

@[simp] theorem State.frame_voiceClip : s.voiceClip.frame = s.frame := State.frame_afterLoop _ _ _

@[simp] theorem State.frame_voiceStages : (s.voiceStages P).frame = s.frame := by
  unfold State.voiceStages
  dsimp only
  split <;> split <;> split <;> simp

end

/-! ### The mixer -/

/-- The accumulation keeps the length of the mix buffer. -/
@[simp] theorem length_accumulate (mb vb : Buffer) (off count single : Nat) :
    (accumulate mb vb off count single).words.length = mb.words.length :=
  forUp_const (fun b : Buffer => b.words.length)
    (fun _ _ => ite_const (fun b : Buffer => b.words.length) (Buffer.length_add _ _ _) rfl) _ _ _

@[simp] theorem Buffer.length_moveTail (b : Buffer) (single last extra : Nat) :
    (b.moveTail single last extra).words.length = b.words.length :=
  forDown_const (fun b : Buffer => b.words.length) (fun _ _ => Buffer.length_copy _ _ _) _ _ _

@[simp] theorem Buffer.length_repeatRegion (b : Buffer) (first last shift : Nat) :
    (b.repeatRegion first last shift).words.length = b.words.length :=
  forUp_const (fun b : Buffer => b.words.length) (fun _ _ => Buffer.length_copy _ _ _) _ _ _

/-- The loop expansion keeps the length of the mix buffer. -/
@[simp] theorem Buffer.length_expand (b : Buffer) (single first last reps : Nat) :
    (b.expand single first last reps).words.length = b.words.length :=
  (forUp_const (fun b : Buffer => b.words.length) (fun _ _ => Buffer.length_repeatRegion _ _ _ _) _ _ _).trans
    (b.length_moveTail _ _ _)

section
variable (P : Params) (s : State)

/-- `MIX.LEN` writes the mixer registers only. -/
@[simp] theorem State.outer_mixLen : s.mixLen.outer = s.outer := rfl

@[simp] theorem State.frame_mixAcc : s.mixAcc.frame = s.frame :=
  (State.frame_afterLoop _ _ _).trans ((s.atStage .acc).frame_setMb (length_accumulate _ _ _ _ _))

@[simp] theorem State.frame_mixLoop : s.mixLoop.frame = s.frame :=
  ite_const _ ((State.frame_afterLoop _ _ _).trans ((s.atStage .loop).frame_setMb (Buffer.length_expand _ _ _ _ _))) rfl

@[simp] theorem State.frame_mixClip : s.mixClip.frame = s.frame :=
  (State.frame_afterLoop _ _ _).trans ((s.atStage .finalClip).frame_setMb (Buffer.length_clip _ _))

@[simp] theorem State.frame_mixIn : (s.mixIn P).frame = s.frame :=
  ite_const _ (by simp) ((State.frame_releaseVb P _).trans s.frame_mixAcc)

end

end Sys2Proof.Machine
end

section
/-! How an operation ends: a triple for operations that may raise a fatal exception or fault, and its rules. -/

namespace Sys2Proof.Machine

/-! ### Endings -/

/-- The fatal causes that the block raises (`60_exceptions.md` R346, R347, R351). -/
abbrev Cause.isRaised (c : Cause) : Prop := c = .reserved ∨ c = .fail

/-- How an operation ends: with a result that satisfies `Q` in a state that satisfies `I`; with the entry of a fatal
exception from a state that satisfies `I`; or with a fault. -/
inductive Ends {α : Type} (I : State → Prop) (Q : α → Prop) : Except Stop (α × State) → Prop
  | done {a : α} {t : State} (result : Q a) (state : I t) : Ends I Q (.ok (a, t))
  | raised {u : State} {c : Cause} (state : I u) (cause : c.isRaised) : Ends I Q (.error (.fatal (u.fatalEntry c)))
  | fault {f : Fault} : Ends I Q (.error (.fault f))

/-- The operation keeps `I`, and its results satisfy `Q`. -/
def Keeps {α : Type} (I : State → Prop) (m : Op α) (Q : α → Prop) : Prop := ∀ s, I s → Ends I Q (m s)

/-- No condition on a result. -/
abbrev anyResult {α : Type} : α → Prop := fun _ => True

section
variable {α β : Type} {I J : State → Prop} {Q R : α → Prop} {S : β → Prop} {m : Op α}

theorem Ends.mono {r : Except Stop (α × State)} (h : Ends I Q r) (hs : ∀ t, I t → J t) (hr : ∀ a, Q a → R a) :
    Ends J R r := by
  cases h with
  | done result state => exact .done (hr _ result) (hs _ state)
  | raised state cause => exact .raised (hs _ state) cause
  | fault => exact .fault

/-- An operation that ends well, performed as an instruction. -/
theorem Ends.of_finish {r : Except Stop (Unit × State)} {Q : Unit → Prop} (h : Ends I Q r) {t : State}
    (n : finish r = .next t) : I t ∨ ∃ u c, I u ∧ Cause.isRaised c ∧ t = u.fatalEntry c := by
  cases h with
  | done _ state => cases n; exact .inl state
  | raised state cause => cases n; exact .inr ⟨_, _, state, cause, rfl⟩
  | fault => cases n

/-! ### Rules -/

theorem Keeps.pure {a : α} (h : Q a) : Keeps I (pure a) Q := fun _ hs => .done h hs

theorem Ends.bind {f : α → Op β} {s : State} (hm : Ends I Q (m s)) (hs : ∀ t, I t → J t)
    (hf : ∀ a t, Q a → I t → Ends J S (f a t)) : Ends J S ((m >>= f) s) := by
  rcases op_bind_cases m f s with ⟨a, t, ran, both⟩ | ⟨e, ran, both⟩ <;> rw [ran] at hm <;> rw [both]
  · cases hm with
    | done result state => exact hf a t result state
  · cases hm with
    | raised state cause => exact .raised (hs _ state) cause
    | fault => exact .fault

theorem Keeps.bind {f : α → Op β} (hm : Keeps I m Q) (hf : ∀ a, Q a → Keeps I (f a) S) : Keeps I (m >>= f) S :=
  fun s hs => (hm s hs).bind (fun _ => id) fun a t result state => hf a result t state

/-- Where the first operation's result does not matter. -/
theorem Keeps.bind_any {f : α → Op β} (hm : Keeps I m Q) (hf : ∀ a, Keeps I (f a) S) : Keeps I (m >>= f) S :=
  hm.bind fun a _ => hf a

theorem Keeps.get : Keeps I (get : Op State) anyResult := fun _ hs => .done trivial hs

/-- A state that is looked at is the state the rest starts from. -/
theorem keeps_get_bind {f : State → Op α} (h : ∀ s, I s → Ends I Q (f s s)) : Keeps I (get >>= f) Q :=
  fun s hs => by
    rw [op_bind_ok _ _ (op_get s)]
    exact h s hs

theorem Keeps.modify {f : State → State} (h : ∀ s, I s → I (f s)) : Keeps I (modify f : Op Unit) anyResult :=
  fun s hs => .done trivial (h s hs)

theorem Keeps.raiseFatal {c : Cause} (h : c.isRaised) : Keeps I (raiseFatal c) Q := fun _ hs => .raised hs h

theorem Keeps.throwFault {f : Fault} : Keeps I (throw (.fault f) : Op α) Q := fun _ _ => .fault

theorem Keeps.ite {c : Prop} [Decidable c] {x y : Op α} (hx : c → Keeps I x Q) (hy : ¬ c → Keeps I y Q) :
    Keeps I (if c then x else y) Q := by
  split
  · exact hx ‹_›
  · exact hy ‹_›

end

/-! ### The voices of a render -/

/-- States that agree on what no operation of one voice writes. -/
abbrev framed (k : Frame) (s : State) : Prop := s.frame = k

section
variable {k : Frame} (P : Params)

theorem poolAcquire_keeps (size : Nat) : Keeps (framed k) (poolAcquire P size) anyResult := by
  intro s hs
  rw [poolAcquire_eq]
  split
  · exact .done trivial hs
  · exact .raised hs (.inr rfl)

theorem poolAcquireLatched_keeps : Keeps (framed k) (poolAcquireLatched P) anyResult :=
  Keeps.get.bind_any fun _ => (poolAcquire_keeps P _).bind_any fun _ => .modify fun _ hs => hs

theorem voiceSetup_keeps : Keeps (framed k) (voiceSetup P) anyResult := by
  intro s hs
  rw [voiceSetup_eq]
  split
  · exact .done trivial hs
  · split
    · exact .done trivial ((State.frame_setupRest P _).trans hs)
    · exact .raised hs (.inr rfl)

theorem voiceRender_keeps : Keeps (framed k) (voiceRender P) anyResult :=
  (voiceSetup_keeps P).bind_any fun _ => .modify fun s hs => ite_const State.frame hs ((by simp : _ = s.frame).trans hs)

theorem mixVoices_keeps (l : List (Fin 10)) : Keeps (framed k) (mixVoices P l) anyResult := by
  induction l with
  | nil => exact .pure trivial
  | cons v rest ih =>
    exact Keeps.bind_any (.modify fun _ hs => hs) fun _ => (voiceRender_keeps P).bind_any fun _ =>
      Keeps.bind_any (.modify fun s hs => (s.frame_mixIn P).trans hs) fun _ => ih

end

/-! ### The whole render -/

/-- States that agree on what no operation of the render writes. -/
abbrev outered (k : Outer) (s : State) : Prop := s.outer = k

/-- The output lies inside the mix buffer (`10_state.md` R48). -/
def State.outputHeld (s : State) : Prop := s.outLen.toNat ≤ s.mb.words.length

/-- The end of a render: the output length is the total, and all else of the frame is as before. -/
theorem State.frame_mixEnd (s : State) : s.mixEnd.frame = { s.frame with outLen := s.mix.total } := by
  have h : s.mixLoop.mixClip.frame = s.frame := by simp
  exact congrArg₂ (fun f x => { f with outLen := x : Frame }) h (congrArg (·.mix.total) h)

theorem State.outputHeld_mixEnd (s : State) (h : s.mix.total.toNat ≤ s.mb.words.length) : s.mixEnd.outputHeld := by
  have outLen : s.mixEnd.outLen = s.mix.total := congrArg Frame.outLen s.frame_mixEnd
  have length : s.mixEnd.mb.words.length = s.mb.words.length := congrArg Frame.mbLength s.frame_mixEnd
  rw [State.outputHeld, outLen, length]
  exact h

section
variable {k : Outer} (P : Params)

/-- An operation of one voice writes no more than an operation of the render. -/
theorem Keeps.outer {α : Type} {m : Op α} {Q : α → Prop} (h : ∀ k, Keeps (framed k) m Q) : Keeps (outered k) m Q :=
  fun s hs => (h s.frame s rfl).mono (fun _ ht => (outer_of_frame ht).trans hs) fun _ => id

theorem acquireMb_keeps (size : Nat) : Keeps (outered k) (acquireMb P size) anyResult :=
  (Keeps.outer fun _ => poolAcquire_keeps P size).bind_any fun _ => .modify fun _ hs => hs

theorem mixBody_keeps : Keeps (outered k) (mixBody P) anyResult :=
  Keeps.get.bind_any fun _ => (acquireMb_keeps P _).bind_any fun _ =>
    (Keeps.outer fun _ => mixVoices_keeps P _).bind_any fun _ =>
      .modify fun s hs => (congrArg Frame.outer s.frame_mixEnd).trans hs

/-- `MIX.RENDER` writes neither the configuration nor the warnings. -/
theorem mixRender_keeps : Keeps (outered k) (mixRender P) anyResult := by
  intro s hs
  unfold mixRender
  split
  · dsimp only
    split
    · exact mixBody_keeps P s.mixLen hs
    · exact .raised hs (.inr rfl)
  · exact .done trivial hs

/-- `MIX.RENDER` after its lengths: the buffer, the voices, the end (`45_mixer.md` R308). -/
theorem mixBody_eq (s : State) : mixBody P s =
    (acquireMb P s.mix.total.toNat s).bind fun r =>
      (mixVoices P (tenIndices.filter s.isValid) r.2).bind fun q => .ok ((), q.2.mixEnd) := rfl

/-- A render that ends has its output inside the mix buffer: the voices keep the length that was acquired. -/
theorem mixBody_outputHeld {s t : State} (h : mixBody P s = .ok ((), t)) : t.outputHeld := by
  rw [mixBody_eq, acquireMb_eq] at h
  split at h
  · let u := (s.setPool (poolAfter P s.mix.total.toNat s.pool)).setMb (acquired P s.mix.total.toNat s.pool)
    have voices := mixVoices_keeps (k := u.frame) P (tenIndices.filter s.isValid) u rfl
    change (mixVoices P _ u).bind _ = _ at h
    generalize mixVoices P _ u = r at voices h
    cases voices with
    | @done _ v _ state =>
      cases h
      have total : v.mix = s.mix := congrArg Frame.mix state
      have length : v.mb.words.length = s.mix.total.toNat :=
        (congrArg Frame.mbLength state).trans (length_acquired P _ _)
      exact v.outputHeld_mixEnd (by rw [total, length])
    | raised => cases h
    | fault => cases h
  · cases h

theorem mixRender_outputHeld {s t : State} (h : mixRender P s = .ok ((), t)) : t.outputHeld := by
  unfold mixRender at h
  split at h
  · dsimp only at h
    split at h
    · exact mixBody_outputHeld P h
    · cases h
  · cases h
    exact Nat.zero_le _

end

end Sys2Proof.Machine
end

section
/-! What the loader keeps (`40_config_load.md`; `10_state.md` R31, R34, R36; `60_exceptions.md` R345): the control
registers, the agreement of the warnings with their count, and a well-kept voice in every slot. -/

namespace Sys2Proof.Machine

/-! ### One update -/

/-- The part of the invariant that the loader writes: the warnings and the slots. -/
structure State.Kept (s : State) : Prop where
  warned : s.status.warn = true ↔ s.warnCount ≠ 0
  mask : s.warnMask.toNat < 4
  slots : ∀ v : Fin 10, (s.voiceOf v).WellKept

/-- What every operation that is no command keeps, up to the entry of a fatal exception. -/
structure State.Retains (s t : State) : Prop where
  control : t.control = s.control
  kept : s.Kept → t.Kept

/-- What every operation that is no command and ends without a fatal exception keeps. -/
structure State.Evolves (s t : State) : Prop extends s.Retains t where
  output : s.outputHeld → t.outputHeld

section
variable {s t u : State}

theorem State.Evolves.refl (s : State) : s.Evolves s := ⟨⟨rfl, id⟩, id⟩

theorem State.Evolves.trans (h : s.Evolves t) (h' : t.Evolves u) : s.Evolves u :=
  ⟨⟨h'.control.trans h.control, h'.kept ∘ h.kept⟩, h'.output ∘ h.output⟩

/-- Slots and warnings left alone are kept. -/
theorem State.Kept.of_same (h : s.Kept) (slot : t.cfg.slot = s.cfg.slot) (warn : t.status.warn = s.status.warn)
    (count : t.warnCount = s.warnCount) (mask : t.warnMask = s.warnMask) : t.Kept where
  warned := by rw [warn, count]; exact h.warned
  mask := by rw [mask]; exact h.mask
  slots v := by rw [State.voiceOf, slot]; exact h.slots v

theorem State.Evolves.foldl {α : Type} {body : State → α → State} (h : ∀ (t : State) a, t.Evolves (body t a)) (l : List α)
    (s : State) : s.Evolves (l.foldl body s) := by
  induction l generalizing s with
  | nil => exact .refl s
  | cons a rest ih => exact (h s a).trans (ih _)

/-- What no operation of the render writes holds all that the operations keep. -/
theorem retains_of_outer (h : t.outer = s.outer) : s.Retains t :=
  ⟨control_of_outer h, fun kept => kept.of_same (congrArg (·.cfg.slot) h) (congrArg Outer.warn h)
    (congrArg Outer.warnCount h) (congrArg Outer.warnMask h)⟩

end

section
variable (s : State)

theorem evolves_setIo (x : Ports) : s.Evolves (s.setIo x) := ⟨⟨rfl, fun h => h.of_same rfl rfl rfl rfl⟩, id⟩
theorem evolves_setLdr (x : Loader) : s.Evolves (s.setLdr x) := ⟨⟨rfl, fun h => h.of_same rfl rfl rfl rfl⟩, id⟩
theorem evolves_advance (n : Nat) : s.Evolves (s.advance n) := ⟨⟨rfl, fun h => h.of_same rfl rfl rfl rfl⟩, id⟩
theorem evolves_truncate : s.Evolves s.truncate := ⟨⟨rfl, fun h => h.of_same rfl rfl rfl rfl⟩, id⟩
theorem evolves_markTrunc : s.Evolves s.markTrunc := ⟨⟨rfl, fun h => h.of_same rfl rfl rfl rfl⟩, id⟩
theorem evolves_setLoop (first last : BitVec 16) : s.Evolves (s.setLoop first last) :=
  ⟨⟨rfl, fun h => h.of_same rfl rfl rfl rfl⟩, id⟩

/-- A slot written with a well-kept voice. -/
theorem evolves_setSlot (v : Fin 10) (x : Slot) (hx : s.Kept → x.voice.WellKept) : s.Evolves (s.setSlot v x) := by
  refine ⟨⟨rfl, fun h => ⟨h.warned, h.mask, fun w => ?_⟩⟩, id⟩
  by_cases same : w = v
  · rw [same, State.voiceOf_setSlot_same]; exact hx h
  · rw [State.voiceOf_setSlot_other s x same]; exact h.slots w

/-- A voice changed in a way that keeps it well kept. -/
theorem evolves_mapVoice (v : Fin 10) {f : Voice → Voice} (hf : ∀ V : Voice, V.WellKept → (f V).WellKept) :
    s.Evolves (s.mapVoice v f) :=
  evolves_setSlot s v _ fun h => hf _ (h.slots v)

/-- The bit of a cause in `WARN.mask` is one of two (`60_exceptions.md` R340). -/
theorem Cause.maskBit_lt (c : Cause) : c.maskBit.toNat < 4 := by cases c <;> decide

/-- A warning raised is counted (`60_exceptions.md` R345). -/
theorem evolves_raiseWarn (c : Cause) : s.Evolves (s.raiseWarn c) := by
  refine ⟨⟨rfl, fun h => ⟨?_, ?_, h.slots⟩⟩, id⟩
  · simpa using warnCountUp_ne_zero s.warnCount
  · rw [State.raiseWarn_warnMask, BitVec.toNat_or]
    exact Nat.or_lt_two_pow (n := 2) h.mask c.maskBit_lt

/-- A load starts without warnings (`40_config_load.md` R130). -/
theorem evolves_startLoad : s.Evolves s.startLoad :=
  ⟨⟨rfl, fun h => ⟨by simp [State.startLoad], by simp [State.startLoad], h.slots⟩⟩, id⟩

end

/-! ### Voices -/

/-- A voice that holds no value is well kept. -/
theorem Voice.blank_wellKept : Voice.blank.WellKept := ⟨by decide, nofun, nofun⟩

section
variable {V : Voice}

theorem Voice.WellKept.withPartials (h : V.WellKept) {l : List Partial} (length : l.length ≤ 10)
    (amplitudes : ∀ p ∈ l, p.amplitude ≠ 0) : Voice.WellKept { V with partials := l } := ⟨length, amplitudes, h.poles⟩

theorem Voice.WellKept.withFilter (h : V.WellKept) {F : Filter} (present : Bool)
    (poles : present = true → F.ff.count.toNat ≤ 4 ∧ F.fb.count.toNat ≤ 4) :
    Voice.WellKept { V with filterPresent := present, filter := F } := ⟨h.partials, h.amplitudes, poles⟩

/-- Normalisation changes envelopes only (`40_config_load.md` R149). -/
theorem Voice.WellKept.normalise (h : V.WellKept) : V.normalise.WellKept := ⟨h.partials, h.amplitudes, h.poles⟩

end

section
variable (s : State) (v : Fin 10)

theorem evolves_dropFilter : s.Evolves (s.dropFilter v) :=
  evolves_mapVoice s v fun _ h => h.withFilter false nofun

theorem evolves_cfgNormalise : s.Evolves (s.cfgNormalise v) := evolves_mapVoice s v fun _ h => h.normalise

theorem evolves_setSlot_blank : s.Evolves (s.setSlot v Slot.blank) :=
  evolves_setSlot s v _ fun _ => Voice.blank_wellKept

/-- The valid bit written, the voice as before. -/
theorem evolves_setValid : s.Evolves (s.setSlot v ⟨true, s.voiceOf v⟩) := evolves_setSlot s v _ fun h => h.slots v

theorem evolves_normaliseAll : s.Evolves s.normaliseAll :=
  .foldl (fun t v => by
    split
    · exact evolves_cfgNormalise t v
    · exact .refl t) _ s

end

/-! ### Reads of the image -/

/-- Every outcome of a read at the cursor (`20_memory.md` R63). -/
theorem imgU_cases (n : Nat) (s : State) :
    (s.remaining < n ∧ imgU n s = .ok (0, s.truncate)) ∨
      (n ≤ s.remaining ∧ ∃ v, memRead s.img s.cfg.pos.toNat n 0 = .ok v ∧ imgU n s = .ok (v, s.advance n)) ∨
      (∃ f, imgU n s = .error (.fault f)) := by
  by_cases short : s.remaining < n
  · exact .inl ⟨short, imgU_truncated s n short⟩
  · right
    cases read : memRead s.img s.cfg.pos.toNat n 0 with
    | ok v => exact .inl ⟨Nat.not_lt.1 short, v, rfl, by simp [imgU, short, read]⟩
    | error f => exact .inr ⟨f, by simp [imgU, short, read]⟩

/-- Every outcome of a peek (`20_memory.md` R64). -/
theorem imgPeek_cases (k : Nat) (s : State) :
    imgPeek k s = .ok (none, s) ∨
      (∃ b, s.img.read (s.cfg.pos.toNat + k) = some b ∧ imgPeek k s = .ok (some b, s)) ∨
      (∃ f, imgPeek k s = .error (.fault f)) := by
  by_cases inside : s.cfg.pos.toNat + k < s.cfg.len.toNat
  · right
    cases read : s.img.read (s.cfg.pos.toNat + k) with
    | some b => exact .inl ⟨b, rfl, imgPeek_some s k b inside read⟩
    | none => exact .inr ⟨_, imgPeek_unwritten s k inside read⟩
  · exact .inl (imgPeek_none s k (Nat.not_lt.1 inside))

/-- A number of one byte is the byte. -/
theorem memRead_one {m : Image} {a v : Nat} {b : Byte} (hb : m.read a = some b) (h : memRead m a 1 0 = .ok v) :
    v = b.toNat := by
  simp only [memRead, hb, Except.ok.injEq] at h
  omega

/-- The first of two bytes bounds the number they make. -/
theorem memRead_two {m : Image} {a v : Nat} {b : Byte} (hb : m.read a = some b) (h : memRead m a 2 0 = .ok v) :
    256 * b.toNat ≤ v ∧ v < 65536 := by
  cases next : m.read (a + 1) with
  | none => simp [memRead, hb, next] at h
  | some c =>
    simp only [memRead, hb, next, Except.ok.injEq] at h
    omega

/-- A property of states that does not depend on the cursor and its truncation mark: every read of the image keeps
it. -/
structure CursorFree (I : State → Prop) : Prop where
  advance : ∀ {s : State} (n : Nat), I s → I (s.advance n)
  truncate : ∀ {s : State}, I s → I s.truncate
  markTrunc : ∀ {s : State}, I s → I s.markTrunc

section
variable {I : State → Prop} (hI : CursorFree I)
include hI

theorem imgU_keeps (n : Nat) : Keeps I (imgU n) anyResult := by
  intro s hs
  rcases imgU_cases n s with ⟨-, h⟩ | ⟨-, v, -, h⟩ | ⟨f, h⟩ <;> rw [h]
  · exact .done trivial (hI.truncate hs)
  · exact .done trivial (hI.advance n hs)
  · exact .fault

omit hI in
theorem imgPeek_keeps (n : Nat) : Keeps I (imgPeek n) anyResult := by
  intro s hs
  rcases imgPeek_cases n s with h | ⟨b, -, h⟩ | ⟨f, h⟩ <;> rw [h]
  · exact .done trivial hs
  · exact .done trivial hs
  · exact .fault

theorem readSSmart_keeps : Keeps I readSSmart anyResult := by
  unfold readSSmart readSmart
  refine (imgPeek_keeps 0).bind_any fun b => ?_
  cases b with
  | none => exact Keeps.bind_any (.modify fun _ => hI.markTrunc) fun _ => .pure trivial
  | some b =>
    refine .ite (fun _ => (imgU_keeps hI 1).bind_any fun _ => .pure trivial) fun _ => ?_
    exact Keeps.get.bind_any fun _ => (imgU_keeps hI 2).bind_any fun _ =>
      .ite (fun _ => .pure trivial) fun _ => .pure trivial

/-- A number of one byte is at most the byte at the cursor; cut, it is 0. -/
theorem imgU_one_ends {s : State} {b : Byte} (hs : I s) (hb : s.img.read s.cfg.pos.toNat = some b) :
    Ends I (fun v => v ≤ b.toNat) (imgU 1 s) := by
  rcases imgU_cases 1 s with ⟨-, h⟩ | ⟨-, v, read, h⟩ | ⟨f, h⟩ <;> rw [h]
  · exact .done (Nat.zero_le _) (hI.truncate hs)
  · exact .done (memRead_one hb read).le (hI.advance 1 hs)
  · exact .fault

/-- A number of two bytes that is not cut is bounded by its first byte. -/
theorem imgU_two_ends {s : State} {b : Byte} (hs : I s) (hb : s.img.read s.cfg.pos.toNat = some b) :
    Ends I (fun v => 2 ≤ s.remaining → 256 * b.toNat ≤ v ∧ v < 65536) (imgU 2 s) := by
  rcases imgU_cases 2 s with ⟨short, h⟩ | ⟨-, v, read, h⟩ | ⟨f, h⟩ <;> rw [h]
  · exact .done (fun long => absurd short (Nat.not_lt.2 long)) (hI.truncate hs)
  · exact .done (fun _ => memRead_two hb read) (hI.advance 2 hs)
  · exact .fault

/-- An unsigned smart integer has 15 bits: its two-byte form begins with a byte of 128 or more
(`30_encoding.md` R101). -/
theorem readUSmart_keeps : Keeps I readUSmart fun v => 0 ≤ v ∧ v < 32768 := by
  intro s hs
  unfold readUSmart readSmart
  rcases imgPeek_cases 0 s with h | ⟨b, hb, h⟩ | ⟨f, h⟩
  · rw [op_bind_ok _ _ h]
    exact .done (by decide) (hI.markTrunc hs)
  · rw [op_bind_ok _ _ h]
    dsimp only
    have byte := b.isLt
    split
    next small =>
      exact (imgU_one_ends hI hs hb).bind (fun _ => id) fun v t le state => .done (by omega) state
    next large =>
      rw [op_bind_ok _ _ (op_get s)]
      refine (imgU_two_ends hI hs hb).bind (fun _ => id) fun v t bounds state => ?_
      simp only [Config.smartOneMax] at large
      split
      next => exact .done (by decide) state
      next long => exact .done (by simp only [Config.usmartOffset]; omega) state
  · rw [op_bind_error _ _ h]
    exact .fault

end

end Sys2Proof.Machine
end

section
/-! The operations of the loader, each with what it keeps (`40_config_load.md` R130 to R149). -/

namespace Sys2Proof.Machine

/-! ### What the records hold -/

/-- A list of at most `n` partials, none of amplitude 0 (`10_state.md` R31, R34). -/
abbrev partialsHeld (n : Nat) (l : List Partial) : Prop := l.length ≤ n ∧ ∀ p ∈ l, p.amplitude ≠ 0

/-- An amplitude of 15 bits that is not 0 is stored as one that is not 0. -/
theorem amplitude_ne_zero {a : Int} (range : 0 ≤ a ∧ a < 32768) (ne : a ≠ 0) : BitVec.ofInt 15 a ≠ 0 := by
  intro zero
  have := congrArg BitVec.toNat zero
  simp only [BitVec.toNat_ofInt, BitVec.ofNat_eq_ofNat, BitVec.toNat_ofNat] at this
  omega

/-- Legal pole counts (`30_encoding.md` R106). -/
abbrev countsHeld (F : Filter) : Prop := F.ff.count.toNat ≤ 4 ∧ F.fb.count.toNat ≤ 4

theorem countsLegal_iff {c0 c1 : BitVec 4} : countsLegal c0 c1 = true ↔ c0.toNat ≤ 4 ∧ c1.toNat ≤ 4 := by
  rw [countsLegal, Bool.and_eq_true, decide_eq_true_eq, decide_eq_true_eq, Config.maxPoles]

@[simp] theorem Channel.count_setPole (c : Channel) (last : Bool) (p : Fin 4) (x : Pole) :
    (c.setPole last p x).count = c.count := ite_const Channel.count rfl rfl

/-- A pole stored leaves the pole counts alone. -/
theorem Filter.counts_setPole (F : Filter) (pole : PoleAt) (x : Pole) :
    ((F.setPole pole x).ff.count, (F.setPole pole x).fb.count) = (F.ff.count, F.fb.count) :=
  ite_const (fun F : Filter => (F.ff.count, F.fb.count)) (by simp) (by simp)

theorem countsHeld_setPole {F : Filter} (pole : PoleAt) (x : Pole) (h : countsHeld F) :
    countsHeld (F.setPole pole x) := by
  obtain ⟨ff, fb⟩ := Prod.mk.inj (F.counts_setPole pole x)
  rw [countsHeld, ff, fb]
  exact h

theorem countsHeld_storePole {F : Filter} (mask : Byte) (pole : PoleAt) (x : Pole) (h : countsHeld F) :
    countsHeld (storePole mask pole x F) := by
  unfold storePole
  dsimp only
  split
  · exact countsHeld_setPole _ _ h
  · exact countsHeld_setPole _ _ (countsHeld_setPole _ _ h)

/-! ### Reads: they move the cursor only -/

section
variable {I : State → Prop} (hI : CursorFree I)
include hI

theorem readSegments_keeps (n : Nat) : Keeps I (readSegments n) anyResult := by
  induction n with
  | zero => exact .pure trivial
  | succ n ih =>
    exact (imgU_keeps hI 2).bind_any fun _ => (imgU_keeps hI 2).bind_any fun _ => ih.bind_any fun _ => .pure trivial

theorem readEnvHeader_keeps : Keeps I readEnvHeader anyResult :=
  (imgU_keeps hI 1).bind_any fun _ => (imgU_keeps hI 4).bind_any fun _ => (imgU_keeps hI 4).bind_any fun _ =>
    (imgU_keeps hI 1).bind_any fun _ => .pure trivial

theorem readEnvelope_keeps : Keeps I readEnvelope anyResult :=
  (readEnvHeader_keeps hI).bind_any fun _ => (readSegments_keeps hI _).bind_any fun _ => .pure trivial

theorem readCutoff_keeps : Keeps I readCutoff anyResult :=
  (imgU_keeps hI 1).bind_any fun _ => (readSegments_keeps hI _).bind_any fun _ => .pure trivial

theorem readPair_keeps : Keeps I readPair anyResult := by
  refine (imgPeek_keeps 0).bind_any fun b => ?_
  cases b with
  | none => exact .pure trivial
  | some b =>
    refine .ite (fun _ => (imgU_keeps hI 1).bind_any fun _ => .pure trivial) fun _ => ?_
    exact (readEnvelope_keeps hI).bind_any fun _ => (readEnvelope_keeps hI).bind_any fun _ => .pure trivial

theorem readPartials_keeps (n : Nat) : Keeps I (readPartials n) (partialsHeld n) := by
  induction n with
  | zero => exact .pure ⟨le_rfl, nofun⟩
  | succ n ih =>
    refine (readUSmart_keeps hI).bind fun a range => .ite (fun _ => .pure ⟨Nat.zero_le _, nofun⟩) fun ne => ?_
    refine (readSSmart_keeps hI).bind_any fun p => (readUSmart_keeps hI).bind fun d _ => ?_
    refine ih.bind fun rest held => .pure ?_
    exact ⟨Nat.succ_le_succ held.1, List.forall_mem_cons.2 ⟨amplitude_ne_zero range ne, held.2⟩⟩

theorem readPole_keeps : Keeps I readPole anyResult :=
  (imgU_keeps hI 2).bind_any fun _ => (imgU_keeps hI 2).bind_any fun _ => .pure trivial

theorem readPoles_keeps (mask : Byte) (plan : List PoleAt) {F : Filter} (h : countsHeld F) :
    Keeps I (readPoles mask plan F) countsHeld := by
  induction plan generalizing F with
  | nil => exact .pure h
  | cons pole rest ih => exact (readPole_keeps hI).bind_any fun x => ih (countsHeld_storePole mask pole x h)

theorem readFilterHeader_keeps : Keeps I readFilterHeader fun h => countsHeld h.1 := by
  refine (imgU_keeps hI 1).bind_any fun b => .ite (fun legal => ?_) fun _ => .raiseFatal (.inl rfl)
  exact (imgU_keeps hI 2).bind_any fun _ => (imgU_keeps hI 2).bind_any fun _ => (imgU_keeps hI 1).bind_any fun _ =>
    .pure (countsLegal_iff.1 legal)

omit hI in
theorem looksEnv_keeps : Keeps I looksEnv anyResult := by
  refine (imgPeek_keeps 0).bind_any fun b => ?_
  cases b with
  | none => exact .pure trivial
  | some b =>
    refine Keeps.get.bind_any fun s => .ite (fun _ => ?_) fun _ => .pure trivial
    cases memRead s.img (s.cfg.pos.toNat + 1) 4 0 with
    | error f => exact .throwFault
    | ok w =>
      refine .ite (fun _ => .pure trivial) fun _ => (imgPeek_keeps 9).bind_any fun n => ?_
      cases n with
      | none => exact .pure trivial
      | some n => exact .pure trivial

end

/-! ### The operations on a slot -/

/-- What evolves does not depend on the cursor. -/
theorem evolving {k : State} : CursorFree k.Evolves :=
  ⟨fun n hs => hs.trans (evolves_advance _ n), fun hs => hs.trans (evolves_truncate _),
    fun hs => hs.trans (evolves_markTrunc _)⟩

section
variable {k : State} (v : Fin 10)

/-- One update inside an operation of the loader. -/
theorem update_keeps {f : State → State} (h : ∀ s : State, s.Evolves (f s)) : Keeps k.Evolves (modify f) anyResult :=
  .modify fun s hs => hs.trans (h s)

/-- A record read and written into the voice of a slot, with what follows. -/
theorem field_keeps {α : Type} {m : Op α} {f : α → Voice → Voice} {rest : Op Unit}
    (hm : Keeps k.Evolves m anyResult) (hf : ∀ a V, Voice.WellKept V → (f a V).WellKept)
    (hr : Keeps k.Evolves rest anyResult) :
    Keeps k.Evolves (do let a ← m; modify fun s => s.mapVoice v (f a); rest) anyResult :=
  hm.bind_any fun a => (update_keeps fun s => evolves_mapVoice s v (hf a)).bind_any fun _ => hr

/-- An operation whose result is latched. -/
theorem latching_keeps {α : Type} {m : Op α} (hm : Keeps k.Evolves m anyResult) (f : α → Ports → Ports) :
    Keeps k.Evolves (latching m f) anyResult :=
  hm.bind_any fun _ => update_keeps fun s => evolves_setIo s _

theorem cfgPartials_keeps : Keeps k.Evolves (cfgPartials v) anyResult :=
  (readPartials_keeps evolving _).bind fun _ held => update_keeps fun s =>
    evolves_mapVoice s v fun _ h => h.withPartials held.1 held.2

theorem cfgEchorec_keeps : Keeps k.Evolves (cfgEchorec v) anyResult :=
  (readUSmart_keeps evolving).bind_any fun _ => (readUSmart_keeps evolving).bind_any fun _ => update_keeps fun s =>
    evolves_mapVoice s v fun _ h => ⟨h.partials, h.amplitudes, h.poles⟩

theorem cfgTimes_keeps : Keeps k.Evolves (cfgTimes v) anyResult :=
  (imgU_keeps evolving 2).bind_any fun _ => (imgU_keeps evolving 2).bind_any fun _ => update_keeps fun s =>
    evolves_mapVoice s v fun _ h => ⟨h.partials, h.amplitudes, h.poles⟩

/-- A filter record with legal counts, stored. -/
theorem storeFilter_keeps {F : Filter} (h : countsHeld F) :
    Keeps k.Evolves (modify fun s => s.mapVoice v fun V => { V with filterPresent := true, filter := F }) anyResult :=
  update_keeps fun s => evolves_mapVoice s v fun _ old => old.withFilter true fun _ => h

theorem cfgFilterbody_keeps : Keeps k.Evolves (cfgFilterbody v) anyResult := by
  refine (readFilterHeader_keeps evolving).bind fun h header => ?_
  refine (readPoles_keeps evolving _ _ header).bind fun F poles => ?_
  refine Keeps.ite (c := F.cutoffPresent = true) (fun _ => ?_) fun _ => ?_
  · exact (readCutoff_keeps evolving).bind_any fun E =>
      Keeps.bind (Keeps.pure (Q := countsHeld) poles) fun _ => storeFilter_keeps v
  · exact Keeps.bind (Keeps.pure poles) fun _ => storeFilter_keeps v

theorem cfgFilter_keeps : Keeps k.Evolves (cfgFilter v) anyResult := by
  have drop : Keeps k.Evolves (modify fun s => s.dropFilter v) anyResult :=
    update_keeps fun s => evolves_dropFilter s v
  refine (imgPeek_keeps 0).bind_any fun b => ?_
  cases b with
  | none => exact drop
  | some b =>
    refine .ite (fun _ => (imgU_keeps evolving 1).bind_any fun _ => drop) fun _ => looksEnv_keeps.bind_any fun _ => ?_
    refine .ite (fun _ => drop) fun _ => (cfgFilterbody_keeps v).bind_any fun _ => update_keeps fun s => ?_
    split
    · exact (evolves_dropFilter s v).trans (evolves_raiseWarn _ _)
    · exact .refl s

/-! ### Voice, slot, loop region, image -/

theorem cfgVoice_keeps : Keeps k.Evolves (cfgVoice v) anyResult := by
  refine field_keeps v (readEnvelope_keeps evolving) (fun _ _ h => ⟨h.partials, h.amplitudes, h.poles⟩) ?_
  refine field_keeps v (readEnvelope_keeps evolving) (fun _ _ h => ⟨h.partials, h.amplitudes, h.poles⟩) ?_
  refine field_keeps v (readPair_keeps evolving) (fun _ _ h => ⟨h.partials, h.amplitudes, h.poles⟩) ?_
  refine field_keeps v (readPair_keeps evolving) (fun _ _ h => ⟨h.partials, h.amplitudes, h.poles⟩) ?_
  refine field_keeps v (readPair_keeps evolving) (fun _ _ h => ⟨h.partials, h.amplitudes, h.poles⟩) ?_
  exact (cfgPartials_keeps v).bind_any fun _ => (cfgEchorec_keeps v).bind_any fun _ =>
    (cfgTimes_keeps v).bind_any fun _ => cfgFilter_keeps v

theorem cfgSlot_keeps : Keeps k.Evolves (cfgSlot v) anyResult := by
  refine (imgPeek_keeps 0).bind_any fun b => ?_
  cases b with
  | none => exact update_keeps fun s => (evolves_markTrunc s).trans (evolves_setSlot_blank _ v)
  | some b =>
    have empty : Keeps k.Evolves (modify fun s => s.setSlot v Slot.blank) anyResult :=
      update_keeps fun s => evolves_setSlot_blank s v
    refine .ite (fun _ => (imgU_keeps evolving 1).bind_any fun _ => empty) fun _ => ?_
    exact (update_keeps fun s => evolves_setValid s v).bind_any fun _ => cfgVoice_keeps v

theorem cfgLooprec_keeps : Keeps k.Evolves cfgLooprec anyResult := by
  refine Keeps.get.bind_any fun s => .ite (fun _ => ?_) fun _ => update_keeps fun s => evolves_setLoop s 0 0
  exact (imgU_keeps evolving 2).bind_any fun _ => (imgU_keeps evolving 2).bind_any fun _ =>
    update_keeps fun s => evolves_setLoop s _ _

theorem loadSlots_keeps (l : List (Fin 10)) : Keeps k.Evolves (loadSlots l) anyResult := by
  induction l with
  | nil => exact .pure trivial
  | cons v rest ih => exact (cfgSlot_keeps v).bind_any fun _ => ih

theorem cfgLoad_keeps : Keeps k.Evolves cfgLoad anyResult := by
  refine (update_keeps evolves_startLoad).bind_any fun _ => (loadSlots_keeps _).bind_any fun _ => ?_
  refine cfgLooprec_keeps.bind_any fun _ => (update_keeps fun s => ?_).bind_any fun _ =>
    update_keeps evolves_normaliseAll
  split
  · exact evolves_raiseWarn s _
  · exact .refl s

end

/-! ### Rows of the image -/

section
variable (s : State)

theorem evolves_mapEnv (f : Envelope → Envelope) : s.Evolves (s.mapEnv f) := evolves_setIo s _

theorem evolves_passRow (i : Instr) : s.Evolves (s.passRow i) := evolves_advance s _

theorem evolves_putWaveform (w : Nat) : s.Evolves (s.putWaveform w) := evolves_mapEnv s _

theorem evolves_takeWaveform (i : Instr) (w : Nat) : s.Evolves (s.takeWaveform i w) :=
  (evolves_passRow s i).trans (evolves_putWaveform _ w)

theorem evolves_takeSmart (i : Instr) (x : Int) : s.Evolves (s.takeSmart i x) :=
  (evolves_passRow s i).trans (evolves_setIo _ _)

theorem evolves_putHeader (E : Envelope) (n : Byte) : s.Evolves (s.putHeader E n) :=
  (evolves_mapEnv s _).trans (evolves_setLdr _ _)

theorem evolves_putSegment (g : Segment) : s.Evolves (s.putSegment g) :=
  (evolves_mapEnv s _).trans (evolves_setLdr _ _)

/-- Partials for which the list of the latched slot has room. -/
theorem evolves_putPartials {l : List Partial} (room : s.partialsOpen = true) (held : partialsHeld 1 l) :
    s.Evolves (s.putPartials l) := by
  refine evolves_setSlot s _ _ fun kept => ?_
  have old := kept.slots s.ldr.slot
  have length : (s.voiceOf s.ldr.slot).partials.length < 10 := of_decide_eq_true room
  refine old.withPartials ?_ fun p hp => (List.mem_append.1 hp).elim (old.amplitudes p) (held.2 p)
  rw [List.length_append]
  have := held.1
  omega

theorem evolves_putFilterHeader (h : Filter × Byte) (header : countsHeld h.1) : s.Evolves (s.putFilterHeader h) :=
  (evolves_mapVoice s _ fun _ old => old.withFilter true fun _ => header).trans (evolves_setLdr _ _)

theorem evolves_putPole (x : Pole) : s.Evolves (s.putPole x) := by
  rcases s.putPole_cases x with ⟨-, h⟩ | ⟨_, _, -, h⟩ <;> rw [h]
  · exact .refl s
  · refine (evolves_mapVoice s _ fun _ old => ?_).trans (evolves_setLdr _ _)
    exact old.withFilter _ fun present => countsHeld_storePole _ _ _ (old.poles present)

end

/-- A cut entry of the oscillator list: the reads leave the room that the list has. -/
theorem cutOscillator_keeps {k : State} : Keeps k.Evolves (cutRow .oscillator) anyResult := by
  refine keeps_get_bind fun s hs => ?_
  split
  next room =>
    have roomy : CursorFree fun t : State => k.Evolves t ∧ t.partialsOpen = true :=
      ⟨fun n h => ⟨evolving.advance n h.1, h.2⟩, fun h => ⟨evolving.truncate h.1, h.2⟩,
        fun h => ⟨evolving.markTrunc h.1, h.2⟩⟩
    exact (readPartials_keeps roomy 1 s ⟨hs, room⟩).bind (fun _ h => h.1) fun l t held h =>
      .done trivial (h.1.trans (evolves_putPartials t h.2 held))
  next => exact .done trivial hs

/-- A row that the end of the image cuts (`20_memory.md` R63). -/
theorem cutRow_keeps {k : State} (place : Place) : Keeps k.Evolves (cutRow place) anyResult := by
  cases place with
  | operation => exact .pure trivial
  | waveform => exact (imgU_keeps evolving 1).bind_any fun _ => update_keeps fun s => evolves_putWaveform s _
  | slot => exact Keeps.get.bind_any fun _ => cfgSlot_keeps _
  | envHeader => exact (readEnvHeader_keeps evolving).bind_any fun _ => update_keeps fun s => evolves_putHeader s _ _
  | segment => exact (readSegments_keeps evolving 1).bind_any fun l => update_keeps (.foldl evolves_putSegment l)
  | pair => exact (readPair_keeps evolving).bind_any fun _ => update_keeps fun s => evolves_setIo s _
  | usmart => exact (readUSmart_keeps evolving).bind_any fun _ => update_keeps fun s => evolves_setIo s _
  | ssmart => exact (readSSmart_keeps evolving).bind_any fun _ => update_keeps fun s => evolves_setIo s _
  | oscillator => exact cutOscillator_keeps
  | echo => exact Keeps.get.bind_any fun _ => cfgEchorec_keeps _
  | times => exact Keeps.get.bind_any fun _ => cfgTimes_keeps _
  | filter =>
    refine (imgPeek_keeps 0).bind_any fun b => ?_
    cases b with
    | none => exact update_keeps fun s => evolves_dropFilter s _
    | some b =>
      exact (readFilterHeader_keeps evolving).bind fun h header =>
        update_keeps fun s => evolves_putFilterHeader s h header
  | pole => exact (readPole_keeps evolving).bind_any fun x => update_keeps fun s => evolves_putPole s x
  | cutoff => exact (imgU_keeps evolving 1).bind_any fun _ => update_keeps fun s => evolves_putHeader s _ _
  | loop => exact cfgLooprec_keeps

end Sys2Proof.Machine
end

section
/-! What each instruction that is no command does: it evolves the state, or enters a fatal exception from a state that
it reached (`60_exceptions.md` R345, R346, R360). -/

namespace Sys2Proof.Machine

/-! ### What one operation does -/

/-- What an operation that is no command does: it ends, or it enters a fatal exception from a state that it reached. -/
inductive State.Performs (s : State) : State → Prop
  | ends {t : State} (evolves : s.Evolves t) : s.Performs t
  | raises {u : State} {c : Cause} (retains : s.Retains u) (raised : c.isRaised) : s.Performs (u.fatalEntry c)

/-- What an operation of the render does. -/
inductive State.Renders (s : State) : State → Prop
  | ends {t : State} (outer : t.outer = s.outer) (output : s.outputHeld → t.outputHeld) : s.Renders t
  | raises {u : State} {c : Cause} (outer : u.outer = s.outer) (raised : c.isRaised) : s.Renders (u.fatalEntry c)

section
variable {s t u : State}

theorem performs_of_renders (h : s.Renders t) : s.Performs t := by
  cases h with
  | ends outer output => exact .ends ⟨retains_of_outer outer, output⟩
  | raises outer raised => exact .raises (retains_of_outer outer) raised

/-- An operation that completes with an update. -/
theorem performs_of_next (h : (.next u : Host.Outcome State Fault Refusal) = .next t) (hu : s.Evolves u) :
    s.Performs t := by
  cases h
  exact .ends hu

/-- An operation of the loader. -/
theorem performs_of_keeps {m : Op Unit} (h : finish (m s) = .next t)
    (hm : ∀ {k : State}, Keeps k.Evolves m anyResult) : s.Performs t := by
  rcases (hm s (.refl s)).of_finish h with evolves | ⟨u, c, evolves, raised, rfl⟩
  · exact .ends evolves
  · exact .raises evolves.toRetains raised

/-- An operation of the render that completes inside the frame of one voice. -/
theorem renders_of_next (h : (.next u : Host.Outcome State Fault Refusal) = .next t) (hu : u.frame = s.frame) :
    s.Renders t := by
  obtain rfl : u = t := by injection h
  refine .ends (outer_of_frame hu) fun held => ?_
  have outLen : u.outLen = s.outLen := congrArg Frame.outLen hu
  have length : u.mb.words.length = s.mb.words.length := congrArg Frame.mbLength hu
  rw [State.outputHeld, outLen, length]
  exact held

/-- The same for one that needs its reads of `VB`. -/
theorem renders_of_needVb {valued : Bool} (h : needVb valued (.next u) = .next t) (hu : u.frame = s.frame) :
    s.Renders t :=
  renders_of_next (needVb_eq_next.1 h).2 hu

/-- The same for one that needs its reads of `MB`. -/
theorem renders_of_needMb {valued : Bool} (h : needMb valued (.next u) = .next t) (hu : u.frame = s.frame) :
    s.Renders t :=
  renders_of_next (needMb_eq_next.1 h).2 hu

/-- The same for one that acquires a buffer. -/
theorem renders_of_keeps {m : Op Unit} (h : finish (m s) = .next t)
    (hm : ∀ {k : Frame}, Keeps (framed k) m anyResult) : s.Renders t := by
  rcases (hm s rfl).of_finish h with frame | ⟨u, c, frame, raised, rfl⟩
  · exact renders_of_next rfl frame
  · exact .raises (outer_of_frame frame) raised

/-- `MIX.RENDER` leaves its output inside the mix buffer that it acquired. -/
theorem renders_mixRender (h : exec .mixRender s = .next t) : s.Renders t := by
  have ends := mixRender_keeps (k := s.outer) Config.params s rfl
  change finish (mixRender Config.params s) = .next t at h
  rcases finish_cases (mixRender Config.params s) with ⟨u, done, next⟩ | ⟨u, fatal, next⟩ | ⟨f, -, next⟩
  · cases next.symm.trans h
    rw [done] at ends
    cases ends with
    | done _ outer => exact .ends outer fun _ => mixRender_outputHeld Config.params done
  · cases next.symm.trans h
    rw [fatal] at ends
    cases ends with
    | raised outer raised => exact .raises outer raised
  · cases next.symm.trans h

end

/-- The operations of the render: the evaluators, the generators, the stages of a voice, the filter, the mixer and the
pool. -/
def renderOperations : List Instr :=
  [.envReset, .envEval, .genOff, .genSquare, .genSine, .genSaw, .genNoise, .lfoVib, .lfoTrem, .oscPartial, .oscSample,
    .voiceSetup, .voiceSynth, .gateInit, .gateStep, .echoApply, .voiceClip, .voiceRender, .fltCoef, .fltStep, .fltApply,
    .mixLen, .mixAcc, .mixLoop, .mixClip, .mixRender, .poolAcquire, .poolRelease]

/-- What an operation of the render does, one by one. -/
theorem exec_renders {i : Instr} {s t : State} (hi : i ∈ renderOperations) (h : exec i s = .next t) : s.Renders t := by
  cases i
  case envReset | envEval | genOff | genSquare | genSine | genSaw | genNoise => exact renders_of_next h rfl
  case lfoVib | lfoTrem =>
    exact renders_of_next h (ite_const (fun r : Word × State => r.2.frame) rfl rfl)
  case oscPartial => exact renders_of_needVb h (State.frame_oscPartial _ _ _ _ _)
  case oscSample => exact renders_of_needVb h (State.frame_oscSample _ _)
  case voiceSetup => exact renders_of_keeps h (voiceSetup_keeps _)
  case voiceSynth => exact renders_of_needVb h (State.frame_voiceSynth _ _)
  case gateInit => exact renders_of_next h (State.frame_gateInit _ _)
  case gateStep => exact renders_of_next h (State.frame_gateStep _ _)
  case echoApply => exact renders_of_needVb h (State.frame_echoApply _)
  case voiceClip => exact renders_of_needVb h (State.frame_voiceClip _)
  case voiceRender => exact renders_of_keeps h (voiceRender_keeps _)
  case fltCoef => exact renders_of_next h (State.frame_fltCoef _ _)
  case fltStep => exact renders_of_needVb h (State.frame_fltStep _ _ _)
  case fltApply => exact renders_of_needVb h (State.frame_fltApply _ _)
  case mixLen => cases h; exact .ends rfl id
  case mixAcc => exact renders_of_needMb (needVb_eq_next.1 h).2 (State.frame_mixAcc _)
  case mixLoop => exact renders_of_needMb h (State.frame_mixLoop _)
  case mixClip => exact renders_of_needMb h (State.frame_mixClip _)
  case mixRender => exact renders_mixRender h
  case poolAcquire => exact renders_of_keeps h (poolAcquireLatched_keeps _)
  case poolRelease => exact renders_of_next h rfl
  all_goals simp [renderOperations] at hi

/-- The value of an unsigned smart integer has 15 bits, and is not 0 where they are not (`30_encoding.md` R101). -/
theorem unsignedSmart_range {a : Smart} (h : a.isZero = false) :
    (0 ≤ unsignedSmart a ∧ unsignedSmart a < 32768) ∧ unsignedSmart a ≠ 0 := by
  cases a with
  | one v =>
    have ne : v.toNat ≠ 0 := fun zero => by simp [Smart.isZero, BitVec.eq_of_toNat_eq (y := 0#7) zero] at h
    have := v.isLt
    simp only [unsignedSmart, smartValue, smartWord]
    omega
  | two v =>
    have ne : v.toNat ≠ 0 := fun zero => by simp [Smart.isZero, BitVec.eq_of_toNat_eq (y := 0#15) zero] at h
    have := v.isLt
    simp only [unsignedSmart, smartValue, smartWord, Config.usmartOffset]
    omega

/-- An amplitude that is not 0 in the image is not 0 in the record. -/
theorem partialOf_held {a : Smart} (p d : Smart) (h : a.isZero = false) : partialsHeld 1 [partialOf a p d] := by
  obtain ⟨range, ne⟩ := unsignedSmart_range h
  exact ⟨le_rfl, List.forall_mem_singleton.2 (amplitude_ne_zero range ne)⟩

/-- What an operation that is no command does. The row of a partial is one that the decoder gives: its amplitude is
not 0 (`30_encoding.md` R97). -/
theorem exec_performs {i : Instr} {s t : State} (load : i ≠ .cmdLoad) (render : i ≠ .cmdRender) (reset : i ≠ .cmdReset)
    (amplitude : ∀ a p d, i = .imgPartial a p d → a.isZero = false) (h : exec i s = .next t) : s.Performs t := by
  by_cases hi : i ∈ renderOperations
  · exact performs_of_renders (exec_renders hi h)
  cases i
  case cfgLoad => exact performs_of_keeps h cfgLoad_keeps
  case cfgSlot => exact performs_of_keeps h (cfgSlot_keeps _)
  case cfgVoice => exact performs_of_keeps h (cfgVoice_keeps _)
  case cfgEnvrec => exact performs_of_keeps h (latching_keeps (readEnvelope_keeps evolving) _)
  case cfgOptpair => exact performs_of_keeps h (latching_keeps (readPair_keeps evolving) _)
  case cfgPartials => exact performs_of_keeps h (cfgPartials_keeps _)
  case cfgEchorec => exact performs_of_keeps h (cfgEchorec_keeps _)
  case cfgTimes => exact performs_of_keeps h (cfgTimes_keeps _)
  case cfgFilter => exact performs_of_keeps h (cfgFilter_keeps _)
  case cfgLooksenv => exact performs_of_keeps h (latching_keeps looksEnv_keeps _)
  case cfgFilterbody => exact performs_of_keeps h (cfgFilterbody_keeps _)
  case cfgCutenv => exact performs_of_keeps h (latching_keeps (readCutoff_keeps evolving) _)
  case cfgLooprec => exact performs_of_keeps h cfgLooprec_keeps
  case cfgNormalise => exact performs_of_next h (evolves_cfgNormalise s _)
  case wfOff | wfSquare | wfSine | wfSaw | wfNoise | wfReservedAsOff =>
    exact performs_of_next h (evolves_takeWaveform s _ _)
  case imgSlotEmpty => exact performs_of_next h ((evolves_passRow s _).trans (evolves_setSlot_blank _ _))
  case imgSlotVoice => exact performs_of_next h ((evolves_passRow s _).trans (evolves_setValid _ _))
  case imgEnvHeader | imgCutoffEnv => exact performs_of_next h ((evolves_passRow s _).trans (evolves_putHeader _ _ _))
  case imgSegment => exact performs_of_next h ((evolves_passRow s _).trans (evolves_putSegment _ _))
  case imgPairAbsent | imgPairPresent => exact performs_of_next h ((evolves_passRow s _).trans (evolves_setIo _ _))
  case usmart1 | usmart2 | ssmart1 | ssmart2 => exact performs_of_next h (evolves_takeSmart s _ _)
  case imgPartial a p d =>
    refine performs_of_next h ?_
    split
    next room =>
      exact (evolves_passRow s _).trans (evolves_putPartials _ room (partialOf_held p d (amplitude a p d rfl)))
    next => exact .refl s
  case imgPartialEnd => exact performs_of_next h (evolves_passRow s _)
  case imgEcho | imgTimes =>
    exact performs_of_next h ((evolves_passRow s _).trans
      (evolves_mapVoice _ _ fun _ old => ⟨old.partials, old.amplitudes, old.poles⟩))
  case imgFilterAbsent => exact performs_of_next h ((evolves_passRow s _).trans (evolves_dropFilter _ _))
  case imgFilterHeader c0 c1 g0 g1 m =>
    cases h
    split
    next legal =>
      exact .ends ((evolves_passRow s _).trans (evolves_putFilterHeader _ _ (countsLegal_iff.1 legal)))
    next => exact .raises (evolves_advance s 1).toRetains (.inl rfl)
  case imgPole => exact performs_of_next h ((evolves_passRow s _).trans (evolves_putPole _ _))
  case imgLoop => exact performs_of_next h ((evolves_passRow s _).trans (evolves_setLoop _ _ _))
  case cmdLoad => exact absurd rfl load
  case cmdRender => exact absurd rfl render
  case cmdReset => exact absurd rfl reset
  all_goals exact absurd (by decide) hi

end Sys2Proof.Machine
end

section
/-! What a step runs, and what the two commands do (`60_exceptions.md` R352 to R354; log 2). -/

namespace Sys2Proof.Machine

/-! ### What a step runs -/

/-- A code names an operation of the program, no row of the image. -/
theorem placeOf_of_operationOf {code : Byte} {i : Instr} (h : operationOf code = some i) : placeOf i = .operation := by
  have all : ∀ e ∈ operationCodes, placeOf e.2 = .operation := by decide
  obtain ⟨before, after, codes, -⟩ := List.lookup_eq_some_iff.1 h
  exact all (code, i) (codes ▸ List.mem_append_right _ (List.mem_cons_self ..))

theorem placeOf_waveformRow (w : Byte) : placeOf (waveformRow w) = .waveform := by
  unfold waveformRow
  split_ifs <;> rfl

/-- An entry of the oscillator list: a partial has an amplitude that is not 0 (`30_encoding.md` R97). -/
theorem decodeOscillator_cases {bs rest : List Byte} {i : Instr} (h : decodeOscillator bs = some (i, rest)) :
    (∃ a, i = .imgPartialEnd a) ∨ ∃ a p d, i = .imgPartial a p d ∧ a.isZero = false := by
  unfold decodeOscillator at h
  split at h
  · cases h
  · split at h
    · cases h
      exact .inl ⟨_, rfl⟩
    next nonzero =>
      split at h
      · cases h
      · split at h
        · cases h
        · cases h
          exact .inr ⟨_, _, _, rfl, eq_false_of_ne_true nonzero⟩

theorem placeOf_of_decodeRow {place : Place} {bs rest : List Byte} {i : Instr}
    (h : decodeRow place bs = some (i, rest)) : placeOf i = place := by
  unfold decodeRow at h
  split at h
  case h_1 =>
    obtain ⟨j, named, same⟩ := Option.map_eq_some_iff.1 h
    cases same
    exact placeOf_of_operationOf named
  case h_2 =>
    cases h
    exact placeOf_waveformRow _
  case h_9 => rcases decodeOscillator_cases h with ⟨_, rfl⟩ | ⟨_, _, _, rfl, -⟩ <;> rfl
  case h_10 =>
    unfold decodeEcho at h
    repeat' split at h
    all_goals cases h <;> rfl
  all_goals
    repeat' split at h
    all_goals cases h <;> rfl

theorem decodeRow_imgPartial {place : Place} {bs rest : List Byte} {a p d : Smart}
    (h : decodeRow place bs = some (.imgPartial a p d, rest)) : a.isZero = false := by
  obtain rfl : Place.oscillator = place := placeOf_of_decodeRow h
  rcases decodeOscillator_cases h with ⟨_, ⟨⟩⟩ | ⟨_, _, _, ⟨⟩, nonzero⟩
  exact nonzero

/-- What the decoder answers is the row. -/
theorem decodeRow_of_decode {place : Place} {bs rest : List Byte} {i : Instr}
    (h : decode place bs = .ok (i, rest)) : decodeRow place bs = some (i, rest) := by
  unfold decode at h
  split at h
  next row => cases h; exact row
  next => split at h <;> cases h


/-- Every way in which a step answers a next state (log 2). -/
theorem step_cases {s t : State} (h : step s = .next t) :
    t = s ∨
      (∃ i, (∀ a p d, i = .imgPartial a p d → a.isZero = false) ∧ exec i (s.setPending none) = .next t) ∨
      (∃ place, execCutRow place (s.setPending none) = .next t) := by
  cases placed : s.pending with
  | none =>
    cases (step_of_rest placed).symm.trans h
    exact .inl rfl
  | some place =>
    right
    cases read : decode place (fetchBytes place s) with
    | ok r =>
      refine .inl ⟨r.1, fun a p d same => ?_, (step_of_decoded placed read).symm.trans h⟩
      exact decodeRow_imgPartial (p := p) (d := d) (same ▸ decodeRow_of_decode read)
    | error e =>
      cases e with
      | short p => exact .inr ⟨place, (step_of_cut placed read).symm.trans h⟩
      | unassigned code => cases (step_of_unassigned placed read).symm.trans h

/-! ### The commands -/

section
variable {s t : State}

/-- `CMD.LOAD` accepted: the load, and what ends it (`60_exceptions.md` R353). -/
theorem cmdLoad_of_accepted (h : s.acceptsWork = true) :
    cmdLoad s = (cfgLoad (s.beginCommand .loading)).bind fun r => .ok ((), r.2.endLoad) := by
  unfold cmdLoad
  rw [op_bind_ok _ _ (op_get s), if_pos h, op_bind_ok _ _ (op_modify _ s)]
  rfl

theorem cmdLoad_of_refused (h : s.acceptsWork = false) : cmdLoad s = .ok ((), s) := by
  unfold cmdLoad
  rw [op_bind_ok _ _ (op_get s), if_neg (by simp [h])]
  rfl

/-- `CMD.RENDER` accepted: the check, the render, and what ends it (`60_exceptions.md` R354). -/
theorem cmdRender_of_accepted {P : Params} (h : s.acceptsWork = true) :
    cmdRender P s = if s.cfg.legal then
        (mixRender P (s.beginCommand .rendering)).bind fun r => .ok ((), r.2.endRender)
      else .error (.fatal ((s.beginCommand .rendering).fatalEntry .reserved)) := by
  unfold cmdRender
  rw [op_bind_ok _ _ (op_get s), if_pos h, op_bind_ok _ _ (op_modify _ s)]
  split <;> rfl

theorem cmdRender_of_refused {P : Params} (h : s.acceptsWork = false) : cmdRender P s = .ok ((), s) := by
  unfold cmdRender
  rw [op_bind_ok _ _ (op_get s), if_neg (by simp [h])]
  rfl

/-- What `CMD.LOAD` does: nothing, or the whole load, or the load up to a fatal exception. -/
theorem execCmdLoad_cases (h : exec .cmdLoad s = .next t) :
    t = s ∨ s.acceptsWork = true ∧ ∃ u, (s.beginCommand .loading).Retains u ∧
      (t = u.endLoad ∨ ∃ c, Cause.isRaised c ∧ t = u.fatalEntry c) := by
  change finish (cmdLoad s) = .next t at h
  cases accepted : s.acceptsWork with
  | false =>
    rw [cmdLoad_of_refused accepted] at h
    cases h
    exact .inl rfl
  | true =>
    rw [cmdLoad_of_accepted accepted] at h
    have ends := cfgLoad_keeps (s.beginCommand .loading) (.refl _)
    generalize cfgLoad (s.beginCommand .loading) = r at ends h
    refine .inr ⟨rfl, ?_⟩
    cases ends with
    | done _ evolves => cases h; exact ⟨_, evolves.toRetains, .inl rfl⟩
    | raised evolves raised => cases h; exact ⟨_, evolves.toRetains, .inr ⟨_, raised, rfl⟩⟩
    | fault => cases h

/-- What `CMD.RENDER` does: nothing, or the whole render with its output held, or the render up to a fatal
exception. -/
theorem execCmdRender_cases (h : exec .cmdRender s = .next t) :
    t = s ∨ s.acceptsWork = true ∧ ∃ u : State, u.outer = (s.beginCommand .rendering).outer ∧
      (u.outputHeld ∧ t = u.endRender ∨ ∃ c, Cause.isRaised c ∧ t = u.fatalEntry c) := by
  change finish (cmdRender Config.params s) = .next t at h
  cases accepted : s.acceptsWork with
  | false =>
    rw [cmdRender_of_refused accepted] at h
    cases h
    exact .inl rfl
  | true =>
    rw [cmdRender_of_accepted accepted] at h
    refine .inr ⟨rfl, ?_⟩
    split at h
    · have ends := mixRender_keeps Config.params (s.beginCommand .rendering) rfl
      cases result : mixRender Config.params (s.beginCommand .rendering) with
      | ok r =>
        rw [result] at ends h
        cases ends with
        | done _ outer => cases h; exact ⟨_, outer, .inl ⟨mixRender_outputHeld Config.params result, rfl⟩⟩
      | error e =>
        rw [result] at ends h
        cases ends with
        | raised outer raised => cases h; exact ⟨_, outer, .inr ⟨_, raised, rfl⟩⟩
        | fault => cases h
    · cases h
      exact ⟨_, rfl, .inr ⟨_, .inl rfl, rfl⟩⟩

end

end Sys2Proof.Machine
end

section
/-! The invariant of every step (`10_state.md` R26, R34, R36, R48; `60_exceptions.md` R345 to R360). -/

namespace Sys2Proof.Machine

/-! ### The invariant, in its three parts -/

/-- The part of the invariant that the control registers decide: between two steps no command runs, the status bits
say what `SEQ.state` says, and `ERR.cause` is set exactly in ERROR. -/
structure Control.Settled (k : Control) : Prop where
  image : k.img.wf = true
  resting : k.state = .idle ∨ k.state = .done ∨ k.state = .error
  busy : k.busy = false
  finished : k.done = true ↔ k.state = .done
  failed : k.error = true ↔ k.state = .error
  cause : k.errCause ≠ 0 ↔ k.state = .error

section
variable {s t u : State}

/-- The invariant is the control part, the part that the loader writes, and the output. -/
theorem inv_iff : s.Inv ↔ s.control.Settled ∧ s.Kept ∧ (s.seq.state ≠ .idle → s.outputHeld) :=
  ⟨fun h => ⟨⟨h.image, h.resting, h.busy, h.finished, h.failed, h.cause⟩, ⟨h.warned, h.mask, h.slots⟩, h.output⟩,
    fun ⟨c, k, o⟩ => ⟨c.image, c.resting, c.busy, c.finished, c.failed, c.cause, k.warned, k.mask, k.slots, o⟩⟩

theorem State.Retains.img_wf (h : s.Retains u) (wf : s.img.wf = true) : u.img.wf = true :=
  (congrArg (·.img.wf) h.control).trans wf

theorem inv_of_evolves (inv : s.Inv) (h : s.Evolves t) : t.Inv := by
  obtain ⟨settled, kept, output⟩ := inv_iff.1 inv
  have state : t.seq.state = s.seq.state := congrArg Control.state h.control
  refine inv_iff.2 ⟨h.control ▸ settled, h.kept kept, fun busy => h.output (output ?_)⟩
  rwa [← state]

/-- The entry of a fatal exception settles the control registers, whatever they were (`60_exceptions.md` R360). -/
theorem inv_fatalEntry {c : Cause} (image : u.img.wf = true) (kept : u.Kept) (raised : c.isRaised) :
    (u.fatalEntry c).Inv := by
  have cause : c.code ≠ 0 := by rcases raised with rfl | rfl <;> decide
  refine inv_iff.2 ⟨⟨image, .inr (.inr rfl), rfl, by simp [State.control], by simp [State.control],
    by simpa [State.control] using cause⟩, ⟨kept.warned, kept.mask, fun v => ?_⟩, fun _ => Nat.zero_le _⟩
  rw [State.voiceOf, State.fatalEntry_cfg]
  split
  · rw [vget_cleared_slot]
    exact Voice.blank_wellKept
  · exact kept.slots v

theorem inv_of_performs (inv : s.Inv) (h : s.Performs t) : t.Inv := by
  obtain ⟨settled, kept, -⟩ := inv_iff.1 inv
  cases h with
  | ends evolves => exact inv_of_evolves inv evolves
  | raises retains raised =>
    exact inv_fatalEntry (retains.img_wf settled.image) (retains.kept kept) raised

/-- A block that accepts work is not in ERROR. -/
theorem not_failed_of_acceptsWork (inv : s.Inv) (accepted : s.acceptsWork = true) :
    s.status.error = false ∧ s.errCause = 0 := by
  have state : s.seq.state ≠ .error := fun failed => by simp [State.acceptsWork, failed] at accepted
  exact ⟨eq_false_of_ne_true (mt inv.failed.1 state), not_not.1 (mt inv.cause.1 state)⟩

/-- The start of a command keeps slots and warnings. -/
theorem kept_beginCommand (kept : s.Kept) (x : SeqState) : (s.beginCommand x).Kept := kept.of_same rfl rfl rfl rfl

theorem inv_endLoad (inv : s.Inv) (accepted : s.acceptsWork = true) (h : (s.beginCommand .loading).Retains u) :
    u.endLoad.Inv := by
  obtain ⟨settled, kept, -⟩ := inv_iff.1 inv
  obtain ⟨error, cause⟩ := not_failed_of_acceptsWork inv accepted
  have control : u.endLoad.control = ⟨s.img, .idle, false, false, s.status.error, s.errCause⟩ :=
    congrArg (fun k : Control => { k with state := .idle, busy := false }) h.control
  refine inv_iff.2 ⟨?_, (h.kept (kept_beginCommand kept _)).of_same rfl rfl rfl rfl, fun busy => absurd rfl busy⟩
  rw [control, error, cause]
  exact ⟨settled.image, .inl rfl, rfl, by simp, by simp, by simp⟩

theorem inv_endRender (inv : s.Inv) (accepted : s.acceptsWork = true)
    (h : u.outer = (s.beginCommand .rendering).outer) (held : u.outputHeld) : u.endRender.Inv := by
  obtain ⟨settled, kept, -⟩ := inv_iff.1 inv
  obtain ⟨error, cause⟩ := not_failed_of_acceptsWork inv accepted
  have control : u.endRender.control = ⟨s.img, .done, false, true, s.status.error, s.errCause⟩ :=
    congrArg (fun k : Control => { k with state := .done, busy := false, done := true }) (control_of_outer h)
  have keeps := (retains_of_outer h).kept (kept_beginCommand kept _)
  refine inv_iff.2 ⟨?_, keeps.of_same rfl rfl rfl rfl, fun _ => held⟩
  rw [control, error, cause]
  exact ⟨settled.image, .inr (.inl rfl), rfl, by simp, by simp, by simp⟩

/-! ### Every instruction, every step -/

theorem inv_execCmdLoad (inv : s.Inv) (h : exec .cmdLoad s = .next t) : t.Inv := by
  rcases execCmdLoad_cases h with rfl | ⟨accepted, u, retains, rfl | ⟨c, raised, rfl⟩⟩
  · exact inv
  · exact inv_endLoad inv accepted retains
  · obtain ⟨settled, kept, -⟩ := inv_iff.1 inv
    exact inv_fatalEntry (retains.img_wf settled.image) (retains.kept (kept_beginCommand kept _)) raised

theorem inv_execCmdRender (inv : s.Inv) (h : exec .cmdRender s = .next t) : t.Inv := by
  rcases execCmdRender_cases h with rfl | ⟨accepted, u, outer, ⟨held, rfl⟩ | ⟨c, raised, rfl⟩⟩
  · exact inv
  · exact inv_endRender inv accepted outer held
  · obtain ⟨settled, kept, -⟩ := inv_iff.1 inv
    have retains := retains_of_outer outer
    exact inv_fatalEntry (retains.img_wf settled.image) (retains.kept (kept_beginCommand kept _)) raised

/-- The control registers after reset (`70_reset_and_hazards.md` R380). -/
theorem settled_reset : State.reset.control.Settled :=
  ⟨rfl, .inl rfl, rfl, by decide, by decide, by decide⟩

theorem kept_reset : State.reset.Kept := by
  refine ⟨by decide, by decide, fun v => ?_⟩
  have blank : State.reset.voiceOf v = Voice.blank := by simp [State.reset, State.voiceOf, vget, Slot.blank]
  rw [blank]
  exact Voice.blank_wellKept

/-- A reset meets the invariant, whatever the pool holds. -/
theorem inv_blockReset (s : State) : s.blockReset.Inv :=
  inv_iff.2 ⟨settled_reset, kept_reset.of_same rfl rfl rfl rfl, fun busy => absurd rfl busy⟩

theorem inv_execCmdReset (inv : s.Inv) (h : exec .cmdReset s = .next t) : t.Inv := by
  cases h
  split
  · exact inv_blockReset s
  · exact inv

/-- Every instruction keeps the invariant, where a row of a partial has an amplitude that is not 0. -/
theorem inv_exec {i : Instr} (inv : s.Inv) (amplitude : ∀ a p d, i = .imgPartial a p d → a.isZero = false)
    (h : exec i s = .next t) : t.Inv := by
  by_cases load : i = .cmdLoad
  · exact inv_execCmdLoad inv (load ▸ h)
  by_cases render : i = .cmdRender
  · exact inv_execCmdRender inv (render ▸ h)
  by_cases reset : i = .cmdReset
  · exact inv_execCmdReset inv (reset ▸ h)
  exact inv_of_performs inv (exec_performs load render reset amplitude h)

/-- The place taken is no part of the invariant. -/
theorem inv_setPending (inv : s.Inv) (x : Option Place) : (s.setPending x).Inv :=
  inv_of_evolves inv ⟨⟨rfl, fun kept => kept.of_same rfl rfl rfl rfl⟩, id⟩

end

/-- Settles O59: a step rests, runs a decoded instruction, or runs a cut row, and each keeps the invariant. -/
theorem invariantKept : Obligations.InvariantKept := by
  intro s t inv h
  have taken := inv_setPending inv none
  rcases step_cases h with rfl | ⟨i, amplitude, run⟩ | ⟨place, run⟩
  · exact inv
  · exact inv_exec taken amplitude run
  · exact inv_of_performs taken (performs_of_keeps run (cutRow_keeps place))

end Sys2Proof.Machine
end

section
/-! Who writes what, over all instructions (`10_state.md` R25, R39; `20_memory.md` R72; `60_exceptions.md` R360). -/

namespace Sys2Proof.Machine

section
variable {s t : State} {i : Instr}

/-- An operation that is no command leaves the control registers alone, or enters a fatal exception from a state that
did. -/
theorem exec_control (load : i ≠ .cmdLoad) (render : i ≠ .cmdRender) (reset : i ≠ .cmdReset)
    (h : exec i s = .next t) :
    t.control = s.control ∨ ∃ (u : State) (c : Cause), u.control = s.control ∧ c.isRaised ∧ t = u.fatalEntry c := by
  by_cases row : ∃ a p d, i = .imgPartial a p d
  · obtain ⟨a, p, d, rfl⟩ := row
    cases h
    exact .inl (ite_const State.control rfl rfl)
  · cases exec_performs load render reset (fun a p d same => absurd ⟨a, p, d, same⟩ row) h with
    | ends evolves => exact .inl evolves.control
    | raises retains raised => exact .inr ⟨_, _, retains.control, raised, rfl⟩

/-- Only `CMD.RESET` changes the image (`10_state.md` R39, `20_memory.md` R72). -/
theorem exec_img (reset : i ≠ .cmdReset) (h : exec i s = .next t) : t.img = s.img := by
  by_cases load : i = .cmdLoad
  · subst load
    rcases execCmdLoad_cases h with rfl | ⟨-, u, retains, rfl | ⟨c, -, rfl⟩⟩
    · rfl
    · exact congrArg Control.img retains.control
    · exact congrArg Control.img retains.control
  by_cases render : i = .cmdRender
  · subst render
    rcases execCmdRender_cases h with rfl | ⟨-, u, outer, ⟨-, rfl⟩ | ⟨c, -, rfl⟩⟩
    · rfl
    · exact congrArg Control.img (control_of_outer outer)
    · exact congrArg Control.img (control_of_outer outer)
  rcases exec_control load render reset h with control | ⟨u, c, control, -, rfl⟩
  · exact congrArg Control.img control
  · exact congrArg Control.img control

/-- `SEQ.state` changes only by a command or by the entry of a fatal exception (`60_exceptions.md` R360). -/
theorem exec_seqState (load : i ≠ .cmdLoad) (render : i ≠ .cmdRender) (reset : i ≠ .cmdReset)
    (h : exec i s = .next t) :
    t.seq.state = s.seq.state ∨
      (t.seq.state = .error ∧ t.status.error = true ∧ (t.errCause = 0x11 ∨ t.errCause = 0x12)) := by
  rcases exec_control load render reset h with control | ⟨u, c, -, raised, rfl⟩
  · exact .inl (congrArg Control.state control)
  · exact .inr ⟨rfl, rfl, raised.imp (congrArg Cause.code) (congrArg Cause.code)⟩

/-- An operation of the render changes no configuration register and no warning: outside LOADING the entry of a fatal
exception leaves the configuration alone. -/
theorem exec_render_config (hi : i ∈ renderOperations) (loading : s.seq.state ≠ .loading) (h : exec i s = .next t) :
    t.cfg = s.cfg ∧ t.warnCount = s.warnCount ∧ t.warnMask = s.warnMask := by
  cases exec_renders hi h with
  | ends outer =>
    exact ⟨congrArg Outer.cfg outer, congrArg Outer.warnCount outer, congrArg Outer.warnMask outer⟩
  | @raises u c outer raised =>
    have state : u.seq.state = s.seq.state := congrArg Control.state (control_of_outer outer)
    refine ⟨?_, congrArg Outer.warnCount outer, congrArg Outer.warnMask outer⟩
    rw [State.fatalEntry_cfg, if_neg (state ▸ loading)]
    exact congrArg Outer.cfg outer

end

/-- Settles O60: the image, `SEQ.state`, and the configuration under a render, from what each instruction does. -/
theorem whoWritesWhat : Obligations.WhoWritesWhat :=
  fun _ _ _ h => ⟨fun reset => exec_img reset h, fun load render reset => exec_seqState load render reset h,
    fun hi loading => exec_render_config hi loading h⟩

end Sys2Proof.Machine
end

section
/-! What the decoder answers (`30_encoding.md` R90 to R112): a field's bytes are those of the value read from them, so
the encoding of a row that the decoder answers is what it read. -/

namespace Sys2Proof

open Machine

/-! ### Fields -/

/-- A 16-bit field read from two bytes has those bytes. -/
@[simp] theorem bytes16_be16 (b0 b1 : Byte) : bytes16 (be16 b0 b1) = [b0, b1] := by
  have high : (b0 ++ b1).extractLsb' 8 8 = b0 := BitVec.extractLsb'_append_eq_left
  have low : (b0 ++ b1).extractLsb' 0 8 = b1 := BitVec.extractLsb'_append_eq_right
  rw [bytes16, be16, high, low]

/-- The upper half of a 32-bit field, then the lower. -/
theorem bytes32_append (u v : BitVec 16) : bytes32 (u ++ v) = bytes16 u ++ bytes16 v := by
  have high (k : Nat) : (u ++ v).extractLsb' (16 + k) 8 = u.extractLsb' k 8 := by
    rw [BitVec.extractLsb'_append_eq_of_le (Nat.le_add_right ..), Nat.add_sub_cancel_left]
  have low (k : Nat) (hk : k + 8 ≤ 16) : (u ++ v).extractLsb' k 8 = v.extractLsb' k 8 :=
    BitVec.extractLsb'_append_eq_of_add_le hk
  simp only [bytes32, bytes16, ← high, ← low 8 le_rfl, ← low 0 (by decide), List.cons_append, List.nil_append]

/-- A 32-bit field read from four bytes has those bytes. -/
@[simp] theorem bytes32_be32 (b0 b1 b2 b3 : Byte) : bytes32 (be32 b0 b1 b2 b3) = [b0, b1, b2, b3] := by
  rw [be32, bytes32_append, bytes16_be16, bytes16_be16, List.cons_append, List.cons_append, List.nil_append]

/-- A byte is its top bit and the seven bits below it. -/
theorem byte_split (b : Byte) : BitVec.ofBool b.msb ++ b.extractLsb' 0 7 = b := by
  rw [← BitVec.setWidth_eq_extractLsb' (by decide)]
  exact BitVec.cons_msb_setWidth b

/-- The bytes of the smart integer that was read, and what followed them, are what was there. -/
theorem encodeSmart_of_decodeSmart {bs rest : List Byte} {x : Smart} (h : decodeSmart bs = some (x, rest)) :
    bs = encodeSmart x ++ rest := by
  unfold decodeSmart at h
  split at h
  · cases h
  next b0 tail =>
    have head := byte_split b0
    split at h
    next flag =>
      split at h
      · cases h
      next b1 tail =>
        cases h
        have high : (b0.extractLsb' 0 7 ++ b1).extractLsb' 8 7 = b0.extractLsb' 0 7 :=
          BitVec.extractLsb'_append_eq_left
        have low : (b0.extractLsb' 0 7 ++ b1).extractLsb' 0 8 = b1 := BitVec.extractLsb'_append_eq_right
        rw [flag] at head
        rw [encodeSmart, high, low]
        exact congrArg (· :: b1 :: rest) head.symm
    next flag =>
      cases h
      rw [eq_false_of_ne_true flag] at head
      exact congrArg (· :: rest) head.symm

/-- A byte is its two packed pole counts (`30_encoding.md` R106). -/
theorem packedCounts_split (b : Byte) : b.extractLsb' 4 4 ++ b.extractLsb' 0 4 = b :=
  (BitVec.extractLsb'_append_extractLsb'_eq_extractLsb' rfl).trans BitVec.extractLsb'_eq_self

/-! ### Rows -/

/-- A well-formed row was read at the head of the bytes, and `rest` is what it does not consume. -/
structure Reads (i : Instr) (bs rest : List Byte) : Prop where
  wellFormed : i.wellFormed = true
  bytes : encode i <+: bs
  left : rest = bs.drop (consumed i)

/-- A row that consumes all its bytes. -/
theorem Reads.whole {i : Instr} {rest : List Byte} (wf : i.wellFormed = true) (all : consumed i = (encode i).length) :
    Reads i (encode i ++ rest) rest :=
  ⟨wf, List.prefix_append .., by rw [all, List.drop_left]⟩

/-- A code is read as the operation it names (`30_encoding.md` R112). -/
theorem reads_operation {code : Byte} {i : Instr} (h : operationOf code = some i) (rest : List Byte) :
    Reads i (code :: rest) rest := by
  have all : ∀ e ∈ operationCodes, e.2.wellFormed = true ∧ encode e.2 = [e.1] ∧ consumed e.2 = 1 := by decide
  obtain ⟨before, after, codes, -⟩ := List.lookup_eq_some_iff.1 h
  obtain ⟨wf, bytes, one⟩ := all (code, i) (codes ▸ List.mem_append_right _ (List.mem_cons_self ..))
  have whole : Reads i (encode i ++ rest) rest := .whole wf (by rw [bytes, one]; rfl)
  rwa [bytes] at whole

/-- A waveform byte is read as its row; from 5 on it is the reserved one (`30_encoding.md` R105). -/
theorem reads_waveform (w : Byte) (rest : List Byte) : Reads (waveformRow w) (w :: rest) rest := by
  have row : (waveformRow w).wellFormed = true ∧ encode (waveformRow w) = [w] ∧ consumed (waveformRow w) = 1 := by
    revert w
    decide
  obtain ⟨wf, bytes, one⟩ := row
  have whole : Reads (waveformRow w) (encode (waveformRow w) ++ rest) rest := .whole wf (by rw [bytes, one]; rfl)
  rwa [bytes] at whole

/-- An entry of the oscillator list (`30_encoding.md` R97). -/
theorem reads_of_decodeOscillator {bs rest : List Byte} {i : Instr} (h : decodeOscillator bs = some (i, rest)) :
    Reads i bs rest := by
  unfold decodeOscillator at h
  split at h
  · cases h
  next a bs1 read =>
    rw [encodeSmart_of_decodeSmart read]
    split at h
    next zero =>
      cases h
      exact .whole (i := .imgPartialEnd a) zero rfl
    next nonzero =>
      split at h
      · cases h
      next p bs2 read =>
        rw [encodeSmart_of_decodeSmart read]
        split at h
        · cases h
        next d bs3 read =>
          cases h
          rw [encodeSmart_of_decodeSmart read, ← List.append_assoc, ← List.append_assoc]
          exact .whole (i := .imgPartial a p d) (by simpa [Instr.wellFormed] using nonzero) rfl

/-- The echo record (`30_encoding.md` R98). -/
theorem reads_of_decodeEcho {bs rest : List Byte} {i : Instr} (h : decodeEcho bs = some (i, rest)) :
    Reads i bs rest := by
  unfold decodeEcho at h
  split at h
  · cases h
  next d bs1 read =>
    rw [encodeSmart_of_decodeSmart read]
    split at h
    · cases h
    next m bs2 read =>
      cases h
      rw [encodeSmart_of_decodeSmart read, ← List.append_assoc]
      exact .whole (i := .imgEcho d m) rfl rfl

/-- The header of a filter: its first byte is not 0, so its counts are not both 0 (`30_encoding.md` R100, R110 (e)). -/
theorem reads_filterHeader {b : Byte} (present : b ≠ 0) (g0 g1 h0 h1 m : Byte) (rest : List Byte) :
    Reads (.imgFilterHeader (b.extractLsb' 4 4) (b.extractLsb' 0 4) (be16 g0 g1) (be16 h0 h1) m)
      (b :: g0 :: g1 :: h0 :: h1 :: m :: rest) rest where
  wellFormed := by
    rw [← packedCounts_split b, Ne, BitVec.ofNat_eq_ofNat, packedCounts_eq_zero, not_and_or] at present
    simpa [Instr.wellFormed] using present
  bytes := by simp [encode, packedCounts_split]
  left := by simp [consumed, encode, bytes16]

/-- What a row of the image or of the program is read as, at every place. -/
theorem reads_of_decodeRow {place : Place} {bs rest : List Byte} {i : Instr}
    (h : decodeRow place bs = some (i, rest)) : Reads i bs rest := by
  unfold decodeRow at h
  split at h
  case h_1 =>
    obtain ⟨j, named, same⟩ := Option.map_eq_some_iff.1 h
    cases same
    exact reads_operation named rest
  case h_2 w _ =>
    cases h
    exact reads_waveform w rest
  case h_3 b tail =>
    split at h
    next zero => cases h; exact zero ▸ .whole (i := .imgSlotEmpty) rfl rfl
    next nonzero => cases h; exact ⟨bne_iff_ne.2 nonzero, List.prefix_append [b] tail, rfl⟩
  case h_6 b tail =>
    split at h
    next zero => cases h; exact zero ▸ .whole (i := .imgPairAbsent) rfl rfl
    next nonzero => cases h; exact ⟨bne_iff_ne.2 nonzero, List.prefix_append [b] tail, rfl⟩
  case h_7 =>
    split at h
    next v tail read => cases h; rw [encodeSmart_of_decodeSmart read]; exact .whole (i := .usmart1 v) rfl rfl
    next v tail read => cases h; rw [encodeSmart_of_decodeSmart read]; exact .whole (i := .usmart2 v) rfl rfl
    next => cases h
  case h_8 =>
    split at h
    next v tail read => cases h; rw [encodeSmart_of_decodeSmart read]; exact .whole (i := .ssmart1 v) rfl rfl
    next v tail read => cases h; rw [encodeSmart_of_decodeSmart read]; exact .whole (i := .ssmart2 v) rfl rfl
    next => cases h
  case h_9 => exact reads_of_decodeOscillator h
  case h_10 => exact reads_of_decodeEcho h
  case h_12 b tail =>
    split at h
    next zero => cases h; exact zero ▸ .whole (i := .imgFilterAbsent) rfl rfl
    next present =>
      split at h
      next => cases h; exact reads_filterHeader present ..
      next => cases h
  case h_4 | h_5 | h_11 | h_13 | h_14 | h_15 =>
    cases h
    exact ⟨rfl, by simp [encode], rfl⟩
  case h_16 => cases h

/-! ### The statements about the decoder -/

/-- Settles O1: each kind of field, and so each row, is read back from its bytes. -/
theorem roundTrip : Obligations.RoundTrip := decode_encode

/-- Settles O2: the row that the decoder answers was read at the head of the bytes, and is one of its place. -/
theorem decodeSound : Obligations.DecodeSound := by
  intro place bs rest i h
  have row := decodeRow_of_decode h
  obtain ⟨wf, bytes, left⟩ := reads_of_decodeRow row
  exact ⟨wf, placeOf_of_decodeRow row, (List.prefix_iff_eq_take.1 bytes).symm, left⟩

/-- Settles O3: the decoder evaluated on each word. -/
theorem sampleWords : Obligations.SampleWords := by
  unfold Obligations.SampleWords
  decide

end Sys2Proof
end

section
/-! The smart integers (`30_encoding.md` R101 to R104): the shortest form of a value, its bytes, the value read back. -/

namespace Sys2Proof.Machine

/-! ### Bytes -/

/-- The one byte of a short form: its flag 0 adds nothing to the number. -/
theorem encodeSmart_one_ofInt {u : Int} (low : 0 ≤ u) (high : u < 128) :
    encodeSmart (.one (BitVec.ofInt 7 u)) = [BitVec.ofInt 8 u] := by
  refine congrArg (· :: []) (BitVec.eq_of_toNat_eq ?_)
  rw [BitVec.toNat_append, BitVec.toNat_ofInt, BitVec.toNat_ofInt]
  simp
  omega

/-- The two bytes of a long form are those of its 16 bits. -/
theorem encodeSmart_two (x : BitVec 15) : encodeSmart (.two x) = bytes16 (1#1 ++ x) := by
  have bits : be16 (1#1 ++ x.extractLsb' 8 7) (x.extractLsb' 0 8) = 1#1 ++ x := by
    have value : x.extractLsb' 8 7 ++ x.extractLsb' 0 8 = x :=
      (BitVec.extractLsb'_append_extractLsb'_eq_extractLsb' rfl).trans BitVec.extractLsb'_eq_self
    exact BitVec.append_assoc.trans (congrArg (1#1 ++ ·) value)
  rw [← bits, bytes16_be16]
  rfl

/-- The two bytes of a long form: its flag adds 32768 to the number. -/
theorem encodeSmart_two_ofInt {u : Int} (low : 0 ≤ u) (high : u < 32768) :
    encodeSmart (.two (BitVec.ofInt 15 u)) = bytes16 (BitVec.ofInt 16 (u + 32768)) := by
  rw [encodeSmart_two]
  refine congrArg bytes16 (BitVec.eq_of_toNat_eq ?_)
  rw [BitVec.toNat_append, ← Nat.shiftLeft_add_eq_or_of_lt (BitVec.isLt _), BitVec.toNat_ofInt, BitVec.toNat_ofInt]
  simp
  omega

/-! ### Values -/

theorem unsignedSmart_one (x : BitVec 7) : unsignedSmart (.one x) = x.toNat := by
  simp [unsignedSmart, smartValue, smartWord]

theorem unsignedSmart_two (x : BitVec 15) : unsignedSmart (.two x) = x.toNat := by
  simp [unsignedSmart, smartValue, smartWord, Config.usmartOffset]

theorem signedSmart_one (x : BitVec 7) : signedSmart (.one x) = (x.toNat : Int) - 64 := by
  simp [signedSmart, smartValue, smartWord, Config.ssmartBias]

theorem signedSmart_two (x : BitVec 15) : signedSmart (.two x) = (x.toNat : Int) - 16384 := by
  simp only [signedSmart, smartValue, smartWord, Config.ssmartOffset]
  omega

/-- A value that fits its field is stored as it is. -/
theorem toNat_ofInt_of_fits {n : Nat} {u : Int} (low : 0 ≤ u) (high : u < 2 ^ n) :
    ((BitVec.ofInt n u).toNat : Int) = u := by
  rw [BitVec.toNat_ofInt, Int.toNat_of_nonneg (Int.emod_nonneg _ (by positivity))]
  exact Int.emod_eq_of_lt low (by exact_mod_cast high)

/-! ### Forms -/

/-- Settles O6: in each range the form is the short one or the long one, its bytes are those of the value moved into
the form's range, and reading moves it back. -/
theorem smartIntegers : Obligations.SmartIntegers := by
  intro v
  refine ⟨fun low high => ⟨.one (BitVec.ofInt 7 v), ?_, ?_, ?_⟩, fun low high => ⟨.two (BitVec.ofInt 15 v), ?_, ?_, ?_⟩,
    fun low high => ⟨.one (BitVec.ofInt 7 (v + 64)), ?_, ?_, ?_⟩,
    fun low high long => ⟨.two (BitVec.ofInt 15 (v + 16384)), ?_, ?_, ?_⟩, fun outside => ?_, fun outside => ?_,
    fun x => ⟨unsignedSmart_two x, signedSmart_two x⟩⟩
  · exact if_pos ⟨low, high⟩
  · exact encodeSmart_one_ofInt low (by omega)
  · rw [unsignedSmart_one, toNat_ofInt_of_fits low (by omega)]
  · rw [unsignedForm, if_neg (by omega), if_pos ⟨low, high⟩]
  · exact encodeSmart_two_ofInt (by omega) (by omega)
  · rw [unsignedSmart_two, toNat_ofInt_of_fits (by omega) (by omega)]
  · exact if_pos ⟨low, high⟩
  · exact encodeSmart_one_ofInt (by omega) (by omega)
  · rw [signedSmart_one, toNat_ofInt_of_fits (by omega) (by omega)]
    omega
  · rw [signedForm, if_neg (by omega), if_pos ⟨low, high⟩]
  · rw [encodeSmart_two_ofInt (by omega) (by omega), Int.add_assoc]
    rfl
  · rw [signedSmart_two, toNat_ofInt_of_fits (by omega) (by omega)]
    omega
  · rw [unsignedForm, if_neg (by omega), if_neg (by omega)]
  · rw [signedForm, if_neg (by omega), if_neg (by omega)]

end Sys2Proof.Machine
end

section
/-! Bytes that stand at the cursor, and the fields read from them, whole or cut by the end of the image
(`20_memory.md` R60 to R64). -/

namespace Sys2Proof.Machine

section
variable {s : State}

/-! ### The cursor -/

@[simp] theorem State.advance_zero : s.advance 0 = s := by simp [State.advance, State.setCfg]

@[simp] theorem State.advance_advance (m n : Nat) : (s.advance m).advance n = s.advance (m + n) := by
  simp [State.advance, State.setCfg, BitVec.ofNat_add, BitVec.add_assoc]

/-- A truncated read ends at the end of the image wherever it began. -/
@[simp] theorem State.truncate_advance (n : Nat) : (s.advance n).truncate = s.truncate := rfl

@[simp] theorem State.remaining_truncate : s.truncate.remaining = 0 := Nat.sub_self _

/-- A cut row of `n` bytes ends where the truncated read leaves the cursor. -/
@[simp] theorem State.advance_cutBefore (n : Nat) : (s.cutBefore n).advance n = (s.setPending none).truncate := by
  simp [State.cutBefore, State.advance, State.truncate, State.setCfg]

/-- With the cursor at the end, the mark alone is the truncated read. -/
theorem State.markTrunc_at_end (h : s.cfg.pos = s.cfg.len) : s.markTrunc = s.truncate := by
  simp [State.markTrunc, State.truncate, ← h]

/-! ### The cursor beside the latches, in one order of updates -/

@[simp] theorem State.setIo_advance (x : Ports) (n : Nat) : (s.setIo x).advance n = (s.advance n).setIo x := rfl

@[simp] theorem State.setLdr_advance (x : Loader) (n : Nat) : (s.setLdr x).advance n = (s.advance n).setLdr x := rfl

@[simp] theorem State.setLdr_setIo (x : Loader) (y : Ports) : (s.setLdr x).setIo y = (s.setIo y).setLdr x := rfl

@[simp] theorem State.setIo_setIo (x y : Ports) : (s.setIo x).setIo y = s.setIo y := rfl

@[simp] theorem State.setLdr_setLdr (x y : Loader) : (s.setLdr x).setLdr y = s.setLdr y := rfl

/-! ### Bytes at the cursor -/

theorem remaining_of_holds {bs : List Byte} (h : s.holds bs) : bs.length ≤ s.remaining := by
  obtain ⟨fits, -⟩ := h
  unfold State.remaining
  omega

theorem remaining_advance {bs : List Byte} (h : s.holds bs) :
    (s.advance bs.length).remaining = s.remaining - bs.length := by
  obtain ⟨fits, -⟩ := h
  rw [State.remaining, advance_pos_toNat s _ fits, State.advance_cfg, State.remaining, Nat.sub_add_eq]

/-- Of bytes at the cursor the first ones stand there, and the others behind them. -/
theorem holds_append {xs ys : List Byte} (h : s.holds (xs ++ ys)) : s.holds xs ∧ (s.advance xs.length).holds ys := by
  obtain ⟨fits, read⟩ := h
  rw [List.length_append] at fits
  have first : s.cfg.pos.toNat + xs.length ≤ s.cfg.len.toNat := by omega
  refine ⟨⟨first, fun k hk => ?_⟩, ?_, fun k hk => ?_⟩
  · rw [read k (by simp; omega), List.getElem?_append_left hk]
  · rw [advance_pos_toNat s _ first]
    simpa [Nat.add_assoc] using fits
  · rw [advance_pos_toNat s _ first, State.advance_img, Nat.add_assoc, read _ (by simp; omega),
      List.getElem?_append_right (Nat.le_add_right ..), Nat.add_sub_cancel_left]

/-- The image ends with bytes at the cursor exactly when they stand there and no others remain. -/
theorem ends_iff {bs : List Byte} : s.ends bs ↔ s.holds bs ∧ s.remaining = bs.length := by
  constructor
  · rintro ⟨fits, read⟩
    exact ⟨⟨fits.le, read⟩, by unfold State.remaining; omega⟩
  · rintro ⟨⟨fits, read⟩, all⟩
    exact ⟨by unfold State.remaining at all; omega, read⟩

theorem ends_append {xs ys : List Byte} (h : s.ends (xs ++ ys)) : s.holds xs ∧ (s.advance xs.length).ends ys := by
  obtain ⟨holds, all⟩ := ends_iff.1 h
  obtain ⟨first, second⟩ := holds_append holds
  refine ⟨first, ends_iff.2 ⟨second, ?_⟩⟩
  rw [remaining_advance first, all, List.length_append, Nat.add_sub_cancel_left]

theorem pos_of_ends_nil (h : s.ends []) : s.cfg.pos = s.cfg.len := BitVec.eq_of_toNat_eq (by simpa using h.1)

theorem ends_nil_of_truncate : s.truncate.ends [] := ⟨rfl, nofun⟩

/-! ### Fields -/

@[simp] theorem bigEndian_bytes16 (v : BitVec 16) : bigEndian 0 (bytes16 v) = v.toNat := by
  have := v.isLt
  simp [bigEndian, bytes16, BitVec.extractLsb'_toNat, Nat.shiftRight_eq_div_pow]
  omega

@[simp] theorem bigEndian_bytes32 (v : Word) : bigEndian 0 (bytes32 v) = v.toNat := by
  have := v.isLt
  simp [bigEndian, bytes32, BitVec.extractLsb'_toNat, Nat.shiftRight_eq_div_pow]
  omega

/-- A field at the head of the bytes at the cursor is read, and the others stand behind it. -/
theorem imgU_append {bs ys : List Byte} (h : s.holds (bs ++ ys)) :
    imgU bs.length s = .ok (bigEndian 0 bs, s.advance bs.length) ∧ (s.advance bs.length).holds ys := by
  obtain ⟨⟨fits, read⟩, rest⟩ := holds_append h
  exact ⟨imgU_of_bytes s bs fits read, rest⟩

theorem imgU_byte {b : Byte} {ys : List Byte} (h : s.holds (b :: ys)) :
    imgU 1 s = .ok (b.toNat, s.advance 1) ∧ (s.advance 1).holds ys := by
  simpa [bigEndian] using imgU_append (bs := [b]) h

theorem imgU_16 {v : BitVec 16} {ys : List Byte} (h : s.holds (bytes16 v ++ ys)) :
    imgU 2 s = .ok (v.toNat, s.advance 2) ∧ (s.advance 2).holds ys :=
  bigEndian_bytes16 v ▸ imgU_append h

theorem imgU_32 {v : Word} {ys : List Byte} (h : s.holds (bytes32 v ++ ys)) :
    imgU 4 s = .ok (v.toNat, s.advance 4) ∧ (s.advance 4).holds ys :=
  bigEndian_bytes32 v ▸ imgU_append h

/-- A field that the end of the image cuts behind whole ones. -/
theorem imgU_cut {bs : List Byte} (h : s.holds bs) {n : Nat} (cut : s.remaining < bs.length + n) :
    imgU n (s.advance bs.length) = .ok (0, s.truncate) := by
  have := remaining_of_holds h
  exact imgU_truncated _ n (by rw [remaining_advance h]; omega)

/-- Every later field is cut as well. -/
theorem imgU_truncate {n : Nat} (h : 0 < n) : imgU n s.truncate = .ok (0, s.truncate) :=
  imgU_truncated _ n (by simpa using h)

theorem imgPeek_of_holds {b : Byte} {ys : List Byte} (h : s.holds (b :: ys)) : imgPeek 0 s = .ok (some b, s) := by
  obtain ⟨fits, read⟩ := h
  rw [List.length_cons] at fits
  exact imgPeek_some s 0 b (by omega) (read 0 (Nat.succ_pos _))

theorem imgPeek_of_empty (h : s.remaining = 0) : imgPeek 0 s = .ok (none, s) :=
  imgPeek_none s 0 (Nat.sub_eq_zero_iff_le.1 h)

end

end Sys2Proof.Machine
end

section
/-! Envelope records: the header and the segments read whole, and the rows of the same bytes one by one
(`30_encoding.md` R94, R95; `40_config_load.md` R133). -/

namespace Sys2Proof.Machine

section
variable {s : State}

/-! ### The operation -/

/-- A header that stands whole at the cursor, and what stands behind it. -/
theorem readEnvHeader_of_holds {w n : Byte} {start stop : Word} {ys : List Byte}
    (h : s.holds (encode (.imgEnvHeader w start stop n) ++ ys)) :
    readEnvHeader s = .ok ((⟨waveformOf w.toNat, start, stop, []⟩, n.toNat), s.advance 10) ∧
      (s.advance 10).holds ys := by
  simp only [encode, List.cons_append, List.append_assoc, List.nil_append] at h
  obtain ⟨waveform, h⟩ := imgU_byte h
  obtain ⟨first, h⟩ := imgU_32 h
  obtain ⟨last, h⟩ := imgU_32 h
  obtain ⟨count, h⟩ := imgU_byte h
  rw [readEnvHeader, op_bind_ok _ _ waveform, op_bind_ok _ _ first, op_bind_ok _ _ last, op_bind_ok _ _ count]
  simpa using h

/-- Segments that stand whole at the cursor, and what stands behind them. -/
theorem readSegments_of_holds {segs : List (BitVec 16 × BitVec 16)} {ys : List Byte}
    (h : s.holds (segmentBytes segs ++ ys)) :
    readSegments segs.length s = .ok (segmentsOf segs, s.advance (4 * segs.length)) ∧
      (s.advance (4 * segs.length)).holds ys := by
  induction segs generalizing s with
  | nil => exact ⟨by simp [readSegments, segmentsOf], by simpa [segmentBytes] using h⟩
  | cons g segs ih =>
    simp only [segmentBytes, List.flatMap_cons, encode, List.append_assoc] at h
    obtain ⟨dur, h⟩ := imgU_16 h
    obtain ⟨peak, h⟩ := imgU_16 h
    obtain ⟨segments, h⟩ := ih h
    rw [List.length_cons, readSegments, op_bind_ok _ _ dur, op_bind_ok _ _ peak, op_bind_ok _ _ segments]
    have sum : 2 + 2 + 4 * segs.length = 4 * (segs.length + 1) := by omega
    simpa [segmentsOf, sum] using h

/-- An envelope record that stands whole at the cursor (`40_config_load.md` R133). -/
theorem readEnvelope_of_holds {w : Byte} {start stop : Word} {segs : List (BitVec 16 × BitVec 16)} {ys : List Byte}
    (short : segs.length ≤ 255) (h : s.holds (envelopeBytes w start stop segs ++ ys)) :
    readEnvelope s = .ok (envelopeOf w start stop segs, s.advance (10 + 4 * segs.length)) ∧
      (s.advance (10 + 4 * segs.length)).holds ys := by
  rw [envelopeBytes, List.append_assoc] at h
  obtain ⟨header, h⟩ := readEnvHeader_of_holds h
  obtain ⟨segments, h⟩ := readSegments_of_holds h
  have count : (BitVec.ofNat 8 segs.length).toNat = segs.length := by simp; omega
  rw [count] at header
  rw [readEnvelope, op_bind_ok _ _ header, op_bind_ok _ _ segments]
  simpa [envelopeOf] using h

/-! ### The rows -/

/-- A segment row: the segment joins the record, and one fewer is to come, down to 0 (log 22). -/
theorem exec_imgSegment (dur peak : BitVec 16) :
    exec (.imgSegment dur peak) s = .next (((s.advance 4).setIo { s.io with env1 :=
      { s.io.env1 with segs := s.io.env1.segs ++ [⟨dur, BitVec.ofNat 32 peak.toNat⟩] } }).setLdr
        { s.ldr with left := BitVec.ofNat 8 (s.ldr.left.toNat - 1) }) := by
  have left : (if s.ldr.left = 0 then 0 else s.ldr.left - 1) = BitVec.ofNat 8 (s.ldr.left.toNat - 1) := by
    split
    next none => rw [none]; rfl
    next some => bv_omega
  rw [BitVec.ofNat_toNat, ← left]
  rfl

/-- Segment rows in turn. -/
theorem execAll_imgSegment (segs : List (BitVec 16 × BitVec 16)) :
    execAll (segs.map fun g => .imgSegment g.1 g.2) s = .next (((s.advance (4 * segs.length)).setIo { s.io with env1 :=
      { s.io.env1 with segs := s.io.env1.segs ++ segmentsOf segs } }).setLdr
        { s.ldr with left := BitVec.ofNat 8 (s.ldr.left.toNat - segs.length) }) := by
  induction segs generalizing s with
  | nil =>
    simp only [List.map_nil, execAll, segmentsOf, List.append_nil, List.length_nil, Nat.mul_zero, Nat.sub_zero,
      State.advance_zero, BitVec.ofNat_toNat, BitVec.setWidth_eq]
    rfl
  | cons g segs ih =>
    rw [List.map_cons, execAll, exec_imgSegment, andThen, ih]
    have count : (s.ldr.left.toNat - 1) % 256 - segs.length = s.ldr.left.toNat - (segs.length + 1) := by omega
    have sum : 4 + 4 * segs.length = 4 * (segs.length + 1) := by omega
    simp [segmentsOf, count, sum]

end

/-- Settles O34: the header row begins the record with all its segments to come, and each segment row takes one. -/
theorem envelopeRowsAgree : Obligations.EnvelopeRowsAgree := by
  intro s w start stop segs short h
  have whole : s.holds (envelopeBytes w start stop segs ++ []) := by rwa [List.append_nil]
  obtain ⟨record, -⟩ := readEnvelope_of_holds short whole
  refine ⟨(s.advance (10 + 4 * segs.length)).setIo { s.io with env1 := envelopeOf w start stop segs }, ?_, ?_⟩
  · show finish (latching readEnvelope _ s) = _
    rw [latching, op_bind_ok _ _ record]
    rfl
  · have header : exec (.imgEnvHeader w start stop (BitVec.ofNat 8 segs.length)) s = .next (((s.advance 10).setIo
        { s.io with env1 := ⟨waveformOf w.toNat, start, stop, []⟩ }).setLdr
          { s.ldr with left := BitVec.ofNat 8 segs.length }) := rfl
    rw [execAll, header, andThen, execAll_imgSegment]
    have none : segs.length % 256 - segs.length = 0 := by omega
    simp [envelopeOf, none]

end Sys2Proof.Machine
end

section
/-! A step at a place where the bytes that remain are no whole row (`20_memory.md` R63): the decoder answers that they
are too few, and the cut row runs. -/

namespace Sys2Proof.Machine

/-! ### The decoder on too few bytes -/

/-- The bytes of the shortest row of a place. A filter may be absent, which is one byte. -/
def fewestBytes : Place → Nat
  | .operation => 0
  | .waveform | .slot | .pair | .usmart | .ssmart | .oscillator | .filter | .cutoff => 1
  | .echo => 2
  | .segment | .times | .pole | .loop => 4
  | .envHeader => 10

theorem fewestBytes_le_length_encode (i : Instr) : fewestBytes (placeOf i) ≤ (encode i).length := by
  cases i
  case imgEcho d m =>
    have := Laws.length_encodeSmart d
    have := Laws.length_encodeSmart m
    simp only [encode, List.length_append, placeOf, fewestBytes]
    omega
  case imgPartial | imgPartialEnd | usmart1 | usmart2 | ssmart1 | ssmart2 => exact (Laws.encodeLength_all _).1
  all_goals simp [placeOf, fewestBytes, encode, bytes16, bytes32]

/-- Bytes of the image that are read as no row are too few. -/
theorem decode_short {place : Place} {bs : List Byte} (hp : place ≠ .operation) (h : decodeRow place bs = none) :
    decode place bs = .error (.short place) := by
  unfold decode
  rw [h]
  dsimp only
  split
  · exact absurd rfl hp
  · rfl

/-- Fewer bytes than the shortest row has are read as no row. -/
theorem decodeRow_of_few {place : Place} {bs : List Byte} (few : bs.length < fewestBytes place) :
    decodeRow place bs = none := by
  refine Option.eq_none_iff_forall_ne_some.2 fun ⟨i, rest⟩ row => ?_
  have bytes := (reads_of_decodeRow row).bytes.length_le
  have fewest := fewestBytes_le_length_encode i
  rw [placeOf_of_decodeRow row] at fewest
  omega

/-- A first byte that is not 0 begins a filter header, which has six bytes (`30_encoding.md` R100). -/
theorem decodeRow_filter_of_few {b : Byte} {tail : List Byte} (present : b ≠ 0) (few : tail.length < 5) :
    decodeRow .filter (b :: tail) = none := by
  refine Option.eq_none_iff_forall_ne_some.2 fun ⟨i, rest⟩ row => ?_
  have bytes := (reads_of_decodeRow row).bytes
  have place := placeOf_of_decodeRow row
  cases i <;> cases place
  case imgFilterAbsent => exact present (List.cons_prefix_cons.1 bytes).1.symm
  case imgFilterHeader =>
    have := bytes.length_le
    simp [encode, bytes16] at this
    omega

/-- What is left of a smart integer that is cut is read as none. -/
theorem decodeSmart_cut {rest : List Byte} (h : cutSmart rest) : decodeSmart rest = none := by
  obtain ⟨short, long⟩ := h
  match rest with
  | [] => rfl
  | [b] =>
    have flag : b.msb = true := by simpa [BitVec.msb_eq_decide] using long b (List.mem_singleton.2 rfl)
    simp [decodeSmart, flag]

/-! ### The bytes at the place -/

theorem length_imageBytes_le (m : Image) (a n : Nat) : (imageBytes m a n).length ≤ n := by
  induction n generalizing a with
  | zero => exact le_rfl
  | succ n ih =>
    rw [imageBytes]
    split
    · exact Nat.succ_le_succ (ih (a + 1))
    · exact Nat.zero_le _

section
variable {s : State} {place : Place}

/-- At most the bytes that remain. -/
theorem length_fetchBytes_le (hp : place ≠ .operation) : (fetchBytes place s).length ≤ s.remaining := by
  rw [fetchBytes, if_neg hp]
  exact (length_imageBytes_le ..).trans (min_le_right ..)

/-- A byte that stands at the cursor comes first. -/
theorem fetchBytes_byte {b : Byte} (hp : place ≠ .operation) (h : s.holds [b]) :
    ∃ tail, fetchBytes place s = b :: tail := by
  have room : [b].length ≤ min longestRow s.remaining := le_min (by simp [longestRow]) (remaining_of_holds h)
  exact ⟨_, by rw [fetchBytes, if_neg hp, imageBytes_of_bytes _ _ _ _ room h.2]; rfl⟩

/-- The bytes that the image ends with, if no row is shorter. -/
theorem fetchBytes_of_ends {bs : List Byte} (hp : place ≠ .operation) (short : bs.length ≤ longestRow)
    (h : s.ends bs) : fetchBytes place s = bs := by
  obtain ⟨holds, all⟩ := ends_iff.1 h
  have room : min longestRow s.remaining = bs.length := by omega
  rw [fetchBytes, if_neg hp, room, imageBytes_of_bytes _ _ _ _ le_rfl holds.2, Nat.sub_self, imageBytes,
    List.append_nil]

/-! ### The step -/

/-- Bytes that are read as no row are run as the cut row. -/
theorem step_of_no_row (pending : s.pending = some place) (hp : place ≠ .operation)
    (h : decodeRow place (fetchBytes place s) = none) : step s = execCutRow place (s.setPending none) :=
  step_of_cut pending (decode_short hp h)

/-- So are fewer bytes than the shortest row has. -/
theorem step_of_few (pending : s.pending = some place) (few : s.remaining < fewestBytes place) :
    step s = execCutRow place (s.setPending none) := by
  have hp : place ≠ .operation := by
    rintro rfl
    exact absurd few (Nat.not_lt_zero _)
  exact step_of_no_row pending hp (decodeRow_of_few ((length_fetchBytes_le hp).trans_lt few))

/-- So is a filter header that is not whole. -/
theorem step_of_cut_filterHeader {b : Byte} (pending : s.pending = some .filter) (present : b ≠ 0) (h : s.holds [b])
    (few : s.remaining < 6) : step s = execCutRow .filter (s.setPending none) := by
  obtain ⟨tail, fetched⟩ := fetchBytes_byte (place := .filter) (by decide) h
  have length := length_fetchBytes_le (s := s) (place := .filter) (by decide)
  rw [fetched, List.length_cons] at length
  refine step_of_no_row pending (by decide) ?_
  rw [fetched]
  exact decodeRow_filter_of_few present (by omega)

end

end Sys2Proof.Machine
end

section
/-! The rows of waveform ids, slots, envelope records and pairs, whole or cut (`30_encoding.md` R92 to R96, R105, R108;
`20_memory.md` R63). -/

namespace Sys2Proof.Machine

section
variable {s : State}

/-! ### Records that the end of the image cuts -/

/-- Of two 16-bit fields the end of the image cuts the second, and the first is read as `x`: 0 if it is cut too. -/
def CutPair (s : State) (x : BitVec 16) : Prop :=
  ∃ t, imgU 2 s = .ok (x.toNat, t) ∧ imgU 2 t = .ok (0, s.truncate)

theorem cutPair_of_few (few : s.remaining < 2) : CutPair s 0 :=
  ⟨s.truncate, imgU_truncated s 2 few, imgU_truncate Nat.two_pos⟩

theorem cutPair_of_first {x : BitVec 16} (h : s.holds (bytes16 x)) (cut : s.remaining < 4) : CutPair s x :=
  ⟨s.advance 2, (imgU_16 (ys := []) h).1, imgU_cut h cut⟩

/-- A segment pair that is cut (`30_encoding.md` R95). -/
theorem readSegments_cut {dur : BitVec 16} (h : CutPair s dur) : readSegments 1 s = .ok ([⟨dur, 0⟩], s.truncate) := by
  obtain ⟨t, first, second⟩ := h
  rw [readSegments, op_bind_ok _ _ first, op_bind_ok _ _ second]
  simp [readSegments]

/-- A header of which nothing is left. -/
theorem readEnvHeader_of_empty (h : s.remaining = 0) : readEnvHeader s = .ok ((⟨.off, 0, 0, []⟩, 0), s.truncate) := by
  have waveform : imgU 1 s = .ok (0, s.truncate) := imgU_truncated s 1 (by omega)
  rw [readEnvHeader, op_bind_ok _ _ waveform, op_bind_ok _ _ (imgU_truncate (by decide)),
    op_bind_ok _ _ (imgU_truncate (by decide)), op_bind_ok _ _ (imgU_truncate (by decide))]
  rfl

/-- A header cut in its start value. -/
theorem readEnvHeader_cut_start {w : Byte} (h : s.holds [w]) (cut : s.remaining < 5) :
    readEnvHeader s = .ok ((⟨waveformOf w.toNat, 0, 0, []⟩, 0), s.truncate) := by
  obtain ⟨waveform, -⟩ := imgU_byte h
  have start : imgU 4 (s.advance 1) = .ok (0, s.truncate) := imgU_cut h cut
  rw [readEnvHeader, op_bind_ok _ _ waveform, op_bind_ok _ _ start, op_bind_ok _ _ (imgU_truncate (by decide)),
    op_bind_ok _ _ (imgU_truncate (by decide))]
  rfl

/-- A header cut in its end value. -/
theorem readEnvHeader_cut_stop {w : Byte} {start : Word} (h : s.holds (w :: bytes32 start)) (cut : s.remaining < 9) :
    readEnvHeader s = .ok ((⟨waveformOf w.toNat, start, 0, []⟩, 0), s.truncate) := by
  have stop : imgU 4 (s.advance 5) = .ok (0, s.truncate) := imgU_cut h cut
  obtain ⟨waveform, rest⟩ := imgU_byte h
  obtain ⟨first, -⟩ := imgU_32 (ys := []) rest
  rw [readEnvHeader, op_bind_ok _ _ waveform, op_bind_ok _ _ first, State.advance_advance, op_bind_ok _ _ stop,
    op_bind_ok _ _ (imgU_truncate (by decide))]
  simp

/-- A header without its segment count. -/
theorem readEnvHeader_cut_count {w : Byte} {start stop : Word} (h : s.holds (w :: bytes32 start ++ bytes32 stop))
    (cut : s.remaining < 10) : readEnvHeader s = .ok ((⟨waveformOf w.toNat, start, stop, []⟩, 0), s.truncate) := by
  have count : imgU 1 (s.advance 9) = .ok (0, s.truncate) := imgU_cut h cut
  obtain ⟨waveform, rest⟩ := imgU_byte h
  obtain ⟨first, rest⟩ := imgU_32 rest
  obtain ⟨last, -⟩ := imgU_32 (ys := []) rest
  rw [readEnvHeader, op_bind_ok _ _ waveform, op_bind_ok _ _ first, op_bind_ok _ _ last, State.advance_advance,
    State.advance_advance, op_bind_ok _ _ count]
  simp

/-! ### The steps at cut rows -/

theorem step_cut_waveform (pending : s.pending = some .waveform) (h : s.remaining = 0) :
    step s = exec .wfOff (s.cutBefore 1) := by
  have waveform : imgU 1 (s.setPending none) = .ok (0, (s.setPending none).truncate) :=
    imgU_truncated _ 1 (h ▸ Nat.one_pos)
  rw [step_of_few pending (h ▸ Nat.one_pos), execCutRow, cutRow, op_bind_ok _ _ waveform, ← State.advance_cutBefore 1]
  rfl

theorem step_cut_cutoff (pending : s.pending = some .cutoff) (h : s.remaining = 0) :
    step s = exec (.imgCutoffEnv 0) (s.cutBefore 1) := by
  have count : imgU 1 (s.setPending none) = .ok (0, (s.setPending none).truncate) :=
    imgU_truncated _ 1 (h ▸ Nat.one_pos)
  rw [step_of_few pending (h ▸ Nat.one_pos), execCutRow, cutRow, op_bind_ok _ _ count, ← State.advance_cutBefore 1]
  rfl

theorem step_cut_segment {dur : BitVec 16} (pending : s.pending = some .segment) (few : s.remaining < 4)
    (h : CutPair (s.setPending none) dur) : step s = exec (.imgSegment dur 0) (s.cutBefore 4) := by
  rw [step_of_few pending few, execCutRow, cutRow, op_bind_ok _ _ (readSegments_cut h), ← State.advance_cutBefore 4]
  rfl

theorem step_cut_envHeader {w : Byte} {start stop : Word} (pending : s.pending = some .envHeader)
    (few : s.remaining < 10)
    (h : readEnvHeader (s.setPending none) =
      .ok ((⟨waveformOf w.toNat, start, stop, []⟩, 0), (s.setPending none).truncate)) :
    step s = exec (.imgEnvHeader w start stop 0) (s.cutBefore 10) := by
  rw [step_of_few pending few, execCutRow, cutRow, op_bind_ok _ _ h, ← State.advance_cutBefore 10]
  rfl

end

/-- A waveform byte from 5 on is Off (`30_encoding.md` R105). -/
theorem waveformOf_reserved {n : Nat} (h : 5 ≤ n) : waveformOf n = .off := by
  obtain ⟨k, rfl⟩ := Nat.exists_eq_add_of_le' h
  rfl

/-- Settles O54: each row by its equation, each cut row by the reads of the fields that are left of it. -/
theorem recordRows : Obligations.RecordRows := by
  intro s v w n start stop dur peak
  refine ⟨rfl, rfl, rfl, rfl, rfl, fun reserved => ?_, rfl, ?_, rfl, exec_imgSegment dur peak, rfl, ?_, rfl,
    step_cut_waveform, fun pending h => step_of_few pending (h ▸ Nat.one_pos),
    fun pending h => step_of_few pending (h ▸ Nat.one_pos), step_cut_cutoff,
    fun pending => ⟨fun few => ?_, fun h few => ?_⟩,
    fun pending => ⟨fun h => ?_, fun h few => ?_, fun h few => ?_, fun h few => ?_⟩⟩
  · rw [← waveformOf_reserved reserved]
    rfl
  · show Host.Outcome.next ((s.advance 0).setSlot _ _) = _
    rw [State.advance_zero]
  · show Host.Outcome.next ((s.advance 0).setIo _) = _
    rw [State.advance_zero]
  · exact step_cut_segment pending (by omega) (cutPair_of_few few)
  · exact step_cut_segment pending few (cutPair_of_first h few)
  · exact step_cut_envHeader pending (h ▸ by decide) (readEnvHeader_of_empty h)
  · exact step_cut_envHeader pending (by omega) (readEnvHeader_cut_start h few)
  · exact step_cut_envHeader pending (by omega) (readEnvHeader_cut_stop h few)
  · exact step_cut_envHeader pending few (readEnvHeader_cut_count h few)

end Sys2Proof.Machine
end

section
/-! The rows of smart integers, partials, echo, times and the loop region, whole or cut (`30_encoding.md` R97 to R103,
R109; `20_memory.md` R63; log 14). -/

namespace Sys2Proof.Machine

/-! ### Smart integers at the cursor -/

/-- The one byte of a short form. -/
theorem toNat_shortForm (v : BitVec 7) : (0#1 ++ v : Byte).toNat = v.toNat := by
  rw [BitVec.toNat_append, ← Nat.shiftLeft_add_eq_or_of_lt v.isLt]
  exact Nat.zero_add _

/-- The number of a long form has its flag in front. -/
theorem toNat_longForm (v : BitVec 15) : (1#1 ++ v).toNat = 32768 + v.toNat := by
  rw [BitVec.toNat_append, ← Nat.shiftLeft_add_eq_or_of_lt v.isLt]
  rfl

/-- The first byte of a long form tells it (`30_encoding.md` R111). -/
theorem longForm_first (v : BitVec 7) : 128 ≤ (1#1 ++ v : Byte).toNat := by
  rw [BitVec.toNat_append, ← Nat.shiftLeft_add_eq_or_of_lt v.isLt]
  exact Nat.le_add_right ..

section
variable {s : State} (oneOffset twoOffset : Int)

/-- A smart integer that stands whole at the cursor, and what stands behind it (`30_encoding.md` R101, R102). -/
theorem readSmart_of_holds {x : Smart} {ys : List Byte} (h : s.holds (encodeSmart x ++ ys)) :
    readSmart oneOffset twoOffset s = .ok (smartValue oneOffset twoOffset x, s.advance (encodeSmart x).length) ∧
      (s.advance (encodeSmart x).length).holds ys := by
  refine ⟨?_, (holds_append h).2⟩
  cases x with
  | one v =>
    have peek := imgPeek_of_holds (b := 0#1 ++ v) h
    have short : (0#1 ++ v : Byte).toNat ≤ Config.smartOneMax := by
      rw [toNat_shortForm, Config.smartOneMax]
      omega
    obtain ⟨read, -⟩ := imgU_byte (b := 0#1 ++ v) h
    rw [toNat_shortForm] at read
    rw [readSmart, op_bind_ok _ _ peek]
    dsimp only
    rw [if_pos short, op_bind_ok _ _ read]
    rfl
  | two v =>
    have peek := imgPeek_of_holds (b := 1#1 ++ v.extractLsb' 8 7) h
    have long : ¬ (1#1 ++ v.extractLsb' 8 7 : Byte).toNat ≤ Config.smartOneMax := by
      have := longForm_first (v.extractLsb' 8 7)
      rw [Config.smartOneMax]
      omega
    have room : ¬ s.remaining < 2 := Nat.not_lt.2 (remaining_of_holds (holds_append h).1)
    obtain ⟨read, -⟩ := imgU_16 (encodeSmart_two v ▸ h)
    rw [toNat_longForm] at read
    rw [readSmart, op_bind_ok _ _ peek]
    dsimp only
    rw [if_neg long, op_bind_ok _ _ (op_get s), op_bind_ok _ _ read, if_neg room]
    rfl

/-- A smart integer that the end of the image cuts: 0, with the mark and the cursor at the end (log 14). -/
theorem readSmart_cut {rest : List Byte} (cut : cutSmart rest) (h : s.ends rest) :
    readSmart oneOffset twoOffset s = .ok (0, s.truncate) := by
  obtain ⟨holds, all⟩ := ends_iff.1 h
  obtain ⟨short, long⟩ := cut
  match rest with
  | [] =>
    rw [readSmart, op_bind_ok _ _ (imgPeek_of_empty all)]
    exact congrArg (fun t => Except.ok (0, t)) (State.markTrunc_at_end (pos_of_ends_nil h))
  | [b] =>
    have two : ¬ b.toNat ≤ Config.smartOneMax := by
      have := long b (List.mem_singleton.2 rfl)
      rw [Config.smartOneMax]
      omega
    have few : s.remaining < 2 := all ▸ Nat.one_lt_two
    rw [readSmart, op_bind_ok _ _ (imgPeek_of_holds holds)]
    dsimp only
    rw [if_neg two, op_bind_ok _ _ (op_get s), op_bind_ok _ _ (imgU_truncated s 2 few), if_pos few]
    rfl

end

section
variable {s : State} {a p x : Smart} {rest ys : List Byte}

theorem readUSmart_of_holds (h : s.holds (encodeSmart x ++ ys)) :
    readUSmart s = .ok (unsignedSmart x, s.advance (encodeSmart x).length) ∧
      (s.advance (encodeSmart x).length).holds ys := readSmart_of_holds _ _ h

theorem readSSmart_of_holds (h : s.holds (encodeSmart x ++ ys)) :
    readSSmart s = .ok (signedSmart x, s.advance (encodeSmart x).length) ∧
      (s.advance (encodeSmart x).length).holds ys := readSmart_of_holds _ _ h

theorem readUSmart_cut (cut : cutSmart rest) (h : s.ends rest) : readUSmart s = .ok (0, s.truncate) :=
  readSmart_cut _ _ cut h

theorem readSSmart_cut (cut : cutSmart rest) (h : s.ends rest) : readSSmart s = .ok (0, s.truncate) :=
  readSmart_cut _ _ cut h

/-- Behind a cut field no byte is left. -/
theorem readUSmart_truncate : readUSmart s.truncate = .ok (0, s.truncate) :=
  readUSmart_cut ⟨Nat.zero_le _, List.forall_mem_nil _⟩ ends_nil_of_truncate

/-! ### A cut entry of the oscillator list -/

/-- Cut in its amplitude the list ends. -/
theorem readPartials_cut_amplitude (cut : cutSmart rest) (h : s.ends rest) :
    readPartials 1 s = .ok ([], s.truncate) := by
  rw [readPartials, op_bind_ok _ _ (readUSmart_cut cut h)]
  rfl

/-- Cut in its pitch offset, which is 0 with the delay. -/
theorem readPartials_cut_pitch (cut : cutSmart rest) (ha : a.isZero = false) (h : s.ends (encodeSmart a ++ rest)) :
    readPartials 1 s = .ok ([⟨BitVec.ofInt 15 (unsignedSmart a), 0, 0⟩], s.truncate) := by
  obtain ⟨amplitude, -⟩ := readUSmart_of_holds (ends_iff.1 h).1
  have pitch := readSSmart_cut cut (ends_append h).2
  rw [State.truncate_advance] at pitch
  rw [readPartials, op_bind_ok _ _ amplitude, if_neg (unsignedSmart_range ha).2, op_bind_ok _ _ pitch,
    op_bind_ok _ _ readUSmart_truncate]
  rfl

/-- Cut in its delay. -/
theorem readPartials_cut_delay (cut : cutSmart rest) (ha : a.isZero = false)
    (h : s.ends (encodeSmart a ++ encodeSmart p ++ rest)) :
    readPartials 1 s =
      .ok ([⟨BitVec.ofInt 15 (unsignedSmart a), BitVec.ofInt 16 (signedSmart p), 0⟩], s.truncate) := by
  rw [List.append_assoc] at h
  obtain ⟨amplitude, -⟩ := readUSmart_of_holds (ends_iff.1 h).1
  have behind := (ends_append h).2
  obtain ⟨pitch, -⟩ := readSSmart_of_holds (ends_iff.1 behind).1
  have delay := readUSmart_cut cut (ends_append behind).2
  rw [readPartials, op_bind_ok _ _ amplitude, if_neg (unsignedSmart_range ha).2, op_bind_ok _ _ pitch,
    op_bind_ok _ _ delay]
  rfl

/-! ### What the decoder answers on cut smart integers -/

theorem decodeOscillator_cut_amplitude (cut : cutSmart rest) : decodeOscillator rest = none := by
  simp [decodeOscillator, decodeSmart_cut cut]

theorem decodeOscillator_cut_pitch (cut : cutSmart rest) (ha : a.isZero = false) :
    decodeOscillator (encodeSmart a ++ rest) = none := by
  simp [decodeOscillator, ha, decodeSmart_cut cut]

theorem decodeOscillator_cut_delay (cut : cutSmart rest) (ha : a.isZero = false) :
    decodeOscillator (encodeSmart a ++ encodeSmart p ++ rest) = none := by
  simp [decodeOscillator, ha, decodeSmart_cut cut]

theorem decodeEcho_cut_delay (cut : cutSmart rest) : decodeEcho rest = none := by
  simp [decodeEcho, decodeSmart_cut cut]

theorem decodeEcho_cut_mix (cut : cutSmart rest) : decodeEcho (encodeSmart a ++ rest) = none := by
  simp [decodeEcho, decodeSmart_cut cut]

/-! ### The steps at cut rows -/

/-- Where the image ends with bytes that are no row, the cut row runs. -/
theorem step_of_ends {place : Place} {bs : List Byte} (pending : s.pending = some place) (hp : place ≠ .operation)
    (h : s.ends bs) (short : bs.length ≤ longestRow) (none : decodeRow place bs = none) :
    step s = execCutRow place (s.setPending Option.none) :=
  step_of_no_row pending hp (by rw [fetchBytes_of_ends hp short h, none])

theorem step_cut_smart (pending : s.pending = some .usmart ∨ s.pending = some .ssmart) (cut : cutSmart rest)
    (h : s.ends rest) : step s = .next ((s.setPending none).truncate.setIo { s.io with smart := 0 }) := by
  have short : rest.length ≤ longestRow := cut.1.trans (by decide)
  rcases pending with pending | pending
  · rw [step_of_ends pending (by decide) h short (by simp [decodeRow, decodeSmart_cut cut]), execCutRow, cutRow,
      op_bind_ok _ _ (readUSmart_cut (s := s.setPending none) cut h)]
    rfl
  · rw [step_of_ends pending (by decide) h short (by simp [decodeRow, decodeSmart_cut cut]), execCutRow, cutRow,
      op_bind_ok _ _ (readSSmart_cut (s := s.setPending none) cut h)]
    rfl

theorem step_cut_echo (pending : s.pending = some .echo) (cut : cutSmart rest)
    (h : s.ends rest ∨ s.ends (encodeSmart a ++ rest)) : step s = exec .cfgEchorec (s.setPending none) := by
  have delay := Laws.length_encodeSmart a
  have rest := cut.1
  rcases h with h | h
  · exact step_of_ends pending (by decide) h (by rw [longestRow]; omega) (decodeEcho_cut_delay cut)
  · exact step_of_ends pending (by decide) h (by rw [List.length_append, longestRow]; omega) (decodeEcho_cut_mix cut)

/-- What a cut entry of the oscillator list leaves of it: nothing, the amplitude, or the pitch offset too. -/
abbrev CutEntry (s : State) (a p : Smart) (rest : List Byte) : Prop :=
  s.ends rest ∨ s.ends (encodeSmart a ++ rest) ∧ a.isZero = false ∨
    s.ends (encodeSmart a ++ encodeSmart p ++ rest) ∧ a.isZero = false

theorem step_cut_oscillator (pending : s.pending = some .oscillator) (cut : cutSmart rest) (h : CutEntry s a p rest) :
    step s = execCutRow .oscillator (s.setPending none) := by
  have amplitude := Laws.length_encodeSmart a
  have pitch := Laws.length_encodeSmart p
  have rest := cut.1
  rcases h with h | ⟨h, ha⟩ | ⟨h, ha⟩
  · exact step_of_ends pending (by decide) h (by rw [longestRow]; omega) (decodeOscillator_cut_amplitude cut)
  · exact step_of_ends pending (by decide) h (by rw [List.length_append, longestRow]; omega)
      (decodeOscillator_cut_pitch cut ha)
  · exact step_of_ends pending (by decide) h (by rw [List.length_append, List.length_append, longestRow]; omega)
      (decodeOscillator_cut_delay cut ha)

end

section
variable {s : State}

/-- A voice changed into itself. -/
@[simp] theorem State.mapVoice_id (v : Fin 10) : (s.mapVoice v fun V => V) = s := by
  have same : vset s.cfg.slot v (vget s.cfg.slot v) = s.cfg.slot := Vector.set_getElem_self _
  show s.setCfg { s.cfg with slot := vset s.cfg.slot v (vget s.cfg.slot v) } = s
  rw [same]
  rfl

theorem State.partialsOpen_iff : s.partialsOpen = true ↔ (s.voiceOf s.ldr.slot).partials.length < 10 :=
  decide_eq_true_iff

/-- A list without room is left alone, and nothing is read (log 22). -/
theorem execCutRow_oscillator_full (full : 10 ≤ (s.voiceOf s.ldr.slot).partials.length) :
    execCutRow .oscillator s = .next s := by
  have closed : ¬ s.partialsOpen = true := fun room => absurd (State.partialsOpen_iff.1 room) (Nat.not_lt.2 full)
  rw [execCutRow, cutRow, op_bind_ok _ _ (op_get s), if_neg closed]
  rfl

/-- A list with room takes the partial that is read. -/
theorem execCutRow_oscillator_open {l : List Partial} (room : (s.voiceOf s.ldr.slot).partials.length < 10)
    (read : readPartials 1 s = .ok (l, s.truncate)) : execCutRow .oscillator s = .next (s.truncate.putPartials l) := by
  have opened : s.partialsOpen = true := State.partialsOpen_iff.2 room
  rw [execCutRow, cutRow, op_bind_ok _ _ (op_get s), if_pos opened, op_bind_ok _ _ read]
  rfl

end

/-! ### The rows -/

section
variable {s : State}

/-- A smart integer row latches its value. -/
theorem exec_usmart1 (v : BitVec 7) :
    exec (.usmart1 v) s = .next ((s.advance 1).setIo { s.io with smart := BitVec.ofNat 32 v.toNat }) := by
  rw [← BitVec.ofInt_natCast, ← unsignedSmart_one]
  rfl

theorem exec_usmart2 (v : BitVec 15) :
    exec (.usmart2 v) s = .next ((s.advance 2).setIo { s.io with smart := BitVec.ofNat 32 v.toNat }) := by
  rw [← BitVec.ofInt_natCast, ← unsignedSmart_two]
  rfl

theorem exec_ssmart1 (v : BitVec 7) :
    exec (.ssmart1 v) s = .next ((s.advance 1).setIo { s.io with smart := BitVec.ofInt 32 (v.toNat - 64) }) := by
  rw [← signedSmart_one]
  rfl

theorem exec_ssmart2 (v : BitVec 15) :
    exec (.ssmart2 v) s = .next ((s.advance 2).setIo { s.io with smart := BitVec.ofInt 32 (v.toNat - 16384) }) := by
  rw [← signedSmart_two]
  rfl

/-- A partial row appends to a list that has room. -/
theorem exec_imgPartial_open (a p d : Smart) (room : (s.voiceOf s.ldr.slot).partials.length < 10) :
    exec (.imgPartial a p d) s =
      .next ((s.advance ((encodeSmart a).length + (encodeSmart p).length + (encodeSmart d).length)).putPartials
        [partialOf a p d]) := by
  rw [← List.length_append, ← List.length_append]
  exact congrArg Host.Outcome.next (if_pos (State.partialsOpen_iff.2 room))

/-- After a tenth partial the row does nothing (log 22). -/
theorem exec_imgPartial_full (a p d : Smart) (full : 10 ≤ (s.voiceOf s.ldr.slot).partials.length) :
    exec (.imgPartial a p d) s = .next s :=
  congrArg Host.Outcome.next
    (if_neg fun room => absurd (State.partialsOpen_iff.1 room) (Nat.not_lt.2 full))

/-- The echo row fills both fields. -/
theorem exec_imgEcho (d m : Smart) :
    exec (.imgEcho d m) s = .next ((s.advance ((encodeSmart d).length + (encodeSmart m).length)).mapVoice s.ldr.slot
      fun V => { V with
        echoDelay := BitVec.ofInt 15 (unsignedSmart d)
        echoMix := BitVec.ofInt 15 (unsignedSmart m) }) := by
  rw [← List.length_append]
  rfl

end

/-- Settles O55: each row by its equation; a cut smart integer is 0, and a cut partial joins the list if it has room,
with the fields behind the cut 0. -/
theorem fieldRows : Obligations.FieldRows := by
  intro s v7 v15 a p d x y
  refine ⟨exec_usmart1 v7, exec_usmart2 v15, exec_ssmart1 v7, exec_ssmart2 v15, exec_imgPartial_open a p d,
    exec_imgPartial_full a p d, rfl, exec_imgEcho a d, rfl, rfl, fun pending few => step_of_few pending few,
    fun pending few => step_of_few pending few, fun rest cut => ?_⟩
  have cutEntry (pending : s.pending = some .oscillator) (h : CutEntry s a p rest) := step_cut_oscillator pending cut h
  refine ⟨fun pending h => step_cut_smart pending cut h, fun pending h => step_cut_echo pending cut h,
    fun pending h full => ?_, fun pending room => ⟨fun h => ?_, fun ha h => ?_, fun ha h => ?_⟩⟩
  · rw [cutEntry pending h]
    exact execCutRow_oscillator_full full
  · rw [cutEntry pending (.inl h), execCutRow_oscillator_open (s := s.setPending none) room
      (readPartials_cut_amplitude cut h)]
    simp [State.putPartials]
  · rw [cutEntry pending (.inr (.inl ⟨h, ha⟩))]
    exact execCutRow_oscillator_open room (readPartials_cut_pitch cut ha h)
  · rw [cutEntry pending (.inr (.inr ⟨h, ha⟩))]
    exact execCutRow_oscillator_open room (readPartials_cut_delay cut ha h)

end Sys2Proof.Machine
end

section
/-! The rows of a filter record, whole or cut (`30_encoding.md` R100, R106, R107, R110; `20_memory.md` R63). -/

namespace Sys2Proof.Machine

/-! ### One pole stored -/

/-- The register of a pole at an endpoint of a channel. -/
def Channel.pole (c : Channel) (last : Bool) (p : Fin 4) : Pole := vget (if last then c.last else c.first) p

/-- The register of a pole. -/
def Filter.pole (F : Filter) (k : PoleAt) : Pole := (if k.feedback then F.fb else F.ff).pole k.last k.p

/-- A pole written is read back, and every other pole of the channel stays. -/
theorem Channel.pole_setPole (c : Channel) (last last' : Bool) (p p' : Fin 4) (x : Pole) :
    (c.setPole last p x).pole last' p' = if last' = last ∧ p' = p then x else c.pole last' p' := by
  by_cases same : p' = p
  · subst same
    cases last <;> cases last' <;> simp [Channel.setPole, Channel.pole]
  · have other (v : Vector Pole 4) : vget (vset v p x) p' = vget v p' := vget_vset_other v x same
    cases last <;> cases last' <;> simp [Channel.setPole, Channel.pole, same, other]

/-- A pole written is read back, and every other pole of the filter stays. -/
theorem Filter.pole_setPole (F : Filter) (k j : PoleAt) (x : Pole) :
    (F.setPole k x).pole j = if j = k then x else F.pole j := by
  obtain ⟨last, feedback, p⟩ := k
  obtain ⟨last', feedback', p'⟩ := j
  cases feedback <;> cases feedback' <;> simp [Filter.setPole, Filter.pole, Channel.pole_setPole]

/-- A pole stored: in its own register, and, unflagged at endpoint 0, in that of endpoint 1
(`40_config_load.md` R145). -/
theorem pole_storePole (F : Filter) (mask : Byte) (k j : PoleAt) (x : Pole) :
    (storePole mask k x F).pole j =
      if j.feedback = k.feedback ∧ j.p = k.p ∧
        (j.last = k.last ∨ j.last = true ∧ maskBit mask k.feedback k.p = false) then x else F.pole j := by
  obtain ⟨last, feedback, p⟩ := k
  obtain ⟨last', feedback', p'⟩ := j
  unfold storePole
  dsimp only
  split
  next once =>
    rw [Filter.pole_setPole]
    refine if_congr ?_ rfl rfl
    cases last with
    | false =>
      have flag : maskBit mask feedback p = true := once
      simp [flag, and_left_comm, and_comm]
    | true =>
      rw [or_iff_left_of_imp And.left]
      simp [and_left_comm, and_comm]
  next twice =>
    rw [Filter.pole_setPole, Filter.pole_setPole]
    obtain ⟨rfl, flag⟩ : last = false ∧ maskBit mask feedback p = false := by simpa using twice
    cases last' <;> simp [flag]

/-- The fields of a filter record beside its pole registers. -/
def Filter.header (F : Filter) : BitVec 4 × BitVec 4 × BitVec 16 × BitVec 16 × Bool × Envelope :=
  (F.ff.count, F.fb.count, F.gain0, F.gain1, F.cutoffPresent, F.cutoff)

/-- A record with the same header is the record with other pole registers. -/
theorem Filter.eq_of_header {F G : Filter} (h : G.header = F.header) :
    G = { F with
      ff := { F.ff with first := G.ff.first, last := G.ff.last }
      fb := { F.fb with first := G.fb.first, last := G.fb.last } } := by
  obtain ⟨⟨_, _, _⟩, ⟨_, _, _⟩, _, _, _, _⟩ := F
  obtain ⟨⟨_, _, _⟩, ⟨_, _, _⟩, _, _, _, _⟩ := G
  cases h
  rfl

@[simp] theorem Filter.header_setPole (F : Filter) (k : PoleAt) (x : Pole) : (F.setPole k x).header = F.header :=
  ite_const Filter.header (by simp [Filter.header]) (by simp [Filter.header])

@[simp] theorem header_storePole (F : Filter) (mask : Byte) (k : PoleAt) (x : Pole) :
    (storePole mask k x F).header = F.header :=
  ite_const Filter.header (by simp) (by simp)

section
variable {s : State}

/-! ### The record that the end of the image cuts -/

/-- A pole pair that is cut. -/
theorem readPole_cut {phase : BitVec 16} (h : CutPair s phase) : readPole s = .ok (⟨phase, 0⟩, s.truncate) := by
  obtain ⟨t, first, second⟩ := h
  rw [readPole, op_bind_ok _ _ first, op_bind_ok _ _ second]
  simp

/-- The two counts of a first byte (`30_encoding.md` R106). -/
theorem packedCounts_fields (c0 c1 : BitVec 4) :
    BitVec.ofNat 4 ((c0 ++ c1 : Byte).toNat / 16) = c0 ∧ BitVec.ofNat 4 (c0 ++ c1 : Byte).toNat = c1 := by
  revert c0 c1
  decide

/-- A header with legal counts, of which the two gains are read as `g` and `h` and the mask is cut. -/
theorem readFilterHeader_cut {c0 c1 : BitVec 4} {g h : BitVec 16} {t u : State} (legal : countsLegal c0 c1 = true)
    (counts : s.holds [c0 ++ c1]) (gain0 : imgU 2 (s.advance 1) = .ok (g.toNat, t))
    (gain1 : imgU 2 t = .ok (h.toNat, u)) (mask : imgU 1 u = .ok (0, s.truncate)) :
    readFilterHeader s = .ok ((headerFilter c0 c1 g h 0, 0), s.truncate) := by
  obtain ⟨first, -⟩ := imgU_byte counts
  obtain ⟨high, low⟩ := packedCounts_fields c0 c1
  rw [readFilterHeader, op_bind_ok _ _ first]
  dsimp only
  rw [high, low, if_pos legal, op_bind_ok _ _ gain0, op_bind_ok _ _ gain1, op_bind_ok _ _ mask]
  simp

/-- A header with a reserved count raises its exception on the first byte (`60_exceptions.md` R351). -/
theorem readFilterHeader_reserved {b : Byte} (h : s.holds [b]) (reserved : 4 < b.toNat / 16 ∨ 4 < b.toNat % 16) :
    readFilterHeader s = .error (.fatal ((s.advance 1).fatalEntry .reserved)) := by
  obtain ⟨first, -⟩ := imgU_byte h
  have illegal : ¬ countsLegal (BitVec.ofNat 4 (b.toNat / 16)) (BitVec.ofNat 4 b.toNat) = true := by
    rw [countsLegal_iff, BitVec.toNat_ofNat, BitVec.toNat_ofNat]
    omega
  rw [readFilterHeader, op_bind_ok _ _ first]
  dsimp only
  rw [if_neg illegal]
  rfl

/-! ### The steps at cut rows -/

theorem step_cut_pole {phase : BitVec 16} (pending : s.pending = some .pole) (few : s.remaining < 4)
    (h : CutPair (s.setPending none) phase) : step s = exec (.imgPole phase 0) (s.cutBefore 4) := by
  rw [step_of_few pending few, execCutRow, cutRow, op_bind_ok _ _ (readPole_cut h), ← State.advance_cutBefore 4]
  rfl

/-- Nothing left: no filter (`20_memory.md` R64). -/
theorem step_cut_filter_empty (pending : s.pending = some .filter) (h : s.remaining = 0) :
    step s = exec .cfgFilter (s.setPending none) := by
  have peek : imgPeek 0 (s.setPending none) = .ok (none, s.setPending none) := imgPeek_of_empty h
  rw [step_of_few pending (h ▸ Nat.one_pos), execCutRow, cutRow, op_bind_ok _ _ peek]
  show _ = finish (cfgFilter _ _)
  rw [cfgFilter, op_bind_ok _ _ peek]
  rfl

/-- A reserved count raises its exception all the same. -/
theorem step_cut_filter_reserved {b : Byte} (pending : s.pending = some .filter) (h : s.holds [b])
    (few : s.remaining < 6) (reserved : 4 < b.toNat / 16 ∨ 4 < b.toNat % 16) :
    step s = exec .cfgFilterbody (s.setPending none) := by
  have present : b ≠ 0 := by
    rintro rfl
    exact absurd reserved (by decide)
  have peek : imgPeek 0 (s.setPending none) = .ok (some b, s.setPending none) := imgPeek_of_holds h
  have raised := readFilterHeader_reserved (s := s.setPending none) h reserved
  rw [step_of_cut_filterHeader pending present h few, execCutRow, cutRow, op_bind_ok _ _ peek]
  dsimp only
  rw [op_bind_error _ _ raised]
  show _ = finish (cfgFilterbody _ _)
  rw [cfgFilterbody, op_bind_error _ _ raised]

/-- A legal header with its missing fields 0. -/
theorem step_cut_filterHeader {c0 c1 : BitVec 4} {g h : BitVec 16} {t u : State} (pending : s.pending = some .filter)
    (legal : c0.toNat ≤ 4 ∧ c1.toNat ≤ 4) (present : c0 ≠ 0 ∨ c1 ≠ 0) (counts : s.holds [c0 ++ c1])
    (few : s.remaining < 6) (gain0 : imgU 2 ((s.setPending none).advance 1) = .ok (g.toNat, t))
    (gain1 : imgU 2 t = .ok (h.toNat, u)) (mask : imgU 1 u = .ok (0, (s.setPending none).truncate)) :
    step s = exec (.imgFilterHeader c0 c1 g h 0) (s.cutBefore 6) := by
  have nonzero : (c0 ++ c1 : Byte) ≠ 0 := mt (packedCounts_eq_zero c0 c1).1 (not_and_or.2 present)
  have peek : imgPeek 0 (s.setPending none) = .ok (some (c0 ++ c1), s.setPending none) := imgPeek_of_holds counts
  have lawful := countsLegal_iff.2 legal
  have read := readFilterHeader_cut (s := s.setPending none) lawful counts gain0 gain1 mask
  rw [step_of_cut_filterHeader pending nonzero counts few, execCutRow, cutRow, op_bind_ok _ _ peek]
  dsimp only
  rw [op_bind_ok _ _ read, ← State.advance_cutBefore 6]
  exact congrArg Host.Outcome.next (if_pos lawful).symm

end

/-! ### The rows -/

section
variable {s : State}

/-- The header row with legal counts: a blank record but for the header's fields (log 6), both present bits at once
(log 38). -/
theorem exec_imgFilterHeader {c0 c1 : BitVec 4} (g h : BitVec 16) (m : Byte) (legal : c0.toNat ≤ 4 ∧ c1.toNat ≤ 4) :
    exec (.imgFilterHeader c0 c1 g h m) s = .next (((s.advance 6).mapVoice s.ldr.slot fun V => { V with
      filterPresent := true
      filter := { Filter.blank with
        ff := { Channel.blank with count := c0 }, fb := { Channel.blank with count := c1 }
        gain0 := g, gain1 := h, cutoffPresent := decide (m ≠ 0 ∨ g ≠ h) } }).setLdr
          { s.ldr with mask := m, plan := polePlan c0 c1 m }) := by
  have cutoff : decide (m ≠ 0 ∨ g ≠ h) = (m != 0 || g != h) := Bool.eq_iff_iff.2 (by simp)
  rw [cutoff]
  exact congrArg Host.Outcome.next (if_pos (countsLegal_iff.2 legal))

/-- Without a plan the pole row moves the cursor only (log 22). -/
theorem exec_imgPole_nil (f a : BitVec 16) (none : s.ldr.plan = []) :
    exec (.imgPole f a) s = .next (s.advance 4) := by
  show Host.Outcome.next ((s.advance 4).putPole _) = _
  rw [State.putPole, State.advance_ldr, none]

/-- The pole row stores the next pole of the plan. -/
theorem exec_imgPole_cons (f a : BitVec 16) {k : PoleAt} {rest : List PoleAt} (plan : s.ldr.plan = k :: rest) :
    exec (.imgPole f a) s = .next (((s.advance 4).mapVoice s.ldr.slot fun V =>
      { V with filter := storePole s.ldr.mask k ⟨f, a⟩ (s.voiceOf s.ldr.slot).filter }).setLdr
        { s.ldr with plan := rest }) := by
  show Host.Outcome.next ((s.advance 4).putPole _) = _
  rw [State.putPole, State.advance_ldr, plan]
  rfl

end

/-- Settles O56: each row by its equation, a pole through the one register or the two that it is stored in, and each
cut row by the reads of the fields that are left of it. -/
theorem filterRows : Obligations.FilterRows := by
  intro s c0 c1 g h f a m
  refine ⟨rfl, fun legal0 legal1 => exec_imgFilterHeader g h m ⟨legal0, legal1⟩, exec_imgPole_nil f a,
    fun k rest plan => ⟨_, exec_imgPole_cons f a plan, Filter.eq_of_header (header_storePole ..),
      fun feedback last p => pole_storePole _ _ k ⟨last, feedback, p⟩ _⟩,
    fun pending => ⟨fun few => ?_, fun first few => ?_⟩,
    fun pending => ⟨step_cut_filter_empty pending, fun b => step_cut_filter_reserved pending,
      fun legal0 legal1 present => ⟨fun counts few => ?_, fun bytes few => ?_, fun bytes few => ?_⟩⟩⟩
  · exact step_cut_pole pending (by omega) (cutPair_of_few few)
  · exact step_cut_pole pending few (cutPair_of_first first few)
  · exact step_cut_filterHeader pending ⟨legal0, legal1⟩ present counts (by omega)
      (imgU_cut (s := s.setPending none) counts few) (imgU_truncate Nat.two_pos) (imgU_truncate Nat.one_pos)
  · have counts := (holds_append (xs := [c0 ++ c1]) bytes).1
    obtain ⟨gain0, -⟩ := imgU_16 (ys := []) (imgU_byte (s := s.setPending none) bytes).2
    rw [State.advance_advance] at gain0
    exact step_cut_filterHeader pending ⟨legal0, legal1⟩ present counts (by omega) gain0
      (imgU_cut (s := s.setPending none) bytes few) (imgU_truncate Nat.one_pos)
  · have counts := (holds_append (xs := [c0 ++ c1]) bytes).1
    obtain ⟨gain0, behind⟩ := imgU_16 (imgU_byte (s := s.setPending none) bytes).2
    obtain ⟨gain1, -⟩ := imgU_16 (ys := []) behind
    simp only [State.advance_advance] at gain0 gain1
    exact step_cut_filterHeader pending ⟨legal0, legal1⟩ present counts few gain0 gain1
      (imgU_cut (s := s.setPending none) bytes few)

end Sys2Proof.Machine
end

section
/-! The readers of the loader: an operation that reads the image reads nothing else of the state but the cursor, moves
only the cursor, and stops only at a byte that nothing has written (`20_memory.md` R60 to R64; `10_state.md` R50;
log 8). -/

namespace Sys2Proof.Machine

/-! ### Cursor and latches -/

/-- The cursor and the truncation mark written. -/
def State.moved (s : State) (pos : Word) (trunc : Bool) : State := s.setCfg { s.cfg with pos := pos, trunc := trunc }

/-- A byte of the image below `CFG.len` that nothing has written. -/
abbrev State.unwrittenAt (s : State) (a : Nat) : Prop := a < s.cfg.len.toNat ∧ s.img.read a = none

theorem not_unwrittenAt {s : State} {a : Nat} (written : s.written 0) : ¬ s.unwrittenAt a := by
  rintro ⟨below, unwritten⟩
  have value := written a below (Nat.zero_le a)
  rw [unwritten] at value
  cases value

/-- What a reader does, whatever the latches hold: it answers and moves the cursor, or it faults at an unwritten
byte. -/
def Reader {α : Type} (m : Op α) : Prop := ∀ s : State,
  (∃ a pos trunc, ∀ io, m (s.setIo io) = .ok (a, (s.moved pos trunc).setIo io)) ∨
    ∃ a, s.unwrittenAt a ∧ ∀ io, m (s.setIo io) = .error (.fault (.imgNoValue a))

/-- A read stops at a byte of its range that nothing has written. -/
theorem memRead_error {m : Image} {addr n acc : Nat} {f : Fault} (h : memRead m addr n acc = .error f) :
    ∃ a, addr ≤ a ∧ a < addr + n ∧ m.read a = none ∧ f = .imgNoValue a := by
  induction n generalizing addr acc with
  | zero => cases h
  | succ n ih =>
    rw [memRead] at h
    cases byte : m.read addr with
    | none =>
      rw [byte] at h
      cases h
      exact ⟨addr, le_rfl, by omega, byte, rfl⟩
    | some b =>
      rw [byte] at h
      obtain ⟨a, above, below, unwritten, rfl⟩ := ih h
      exact ⟨a, by omega, by omega, unwritten, rfl⟩

/-! ### Rules -/

section
variable {α β : Type} {m : Op α}

theorem Reader.cases (h : Reader m) (s : State) :
    (∃ a pos trunc, m s = .ok (a, s.moved pos trunc)) ∨
      ∃ a, s.unwrittenAt a ∧ m s = .error (.fault (.imgNoValue a)) := by
  rcases h s with ⟨a, pos, trunc, read⟩ | ⟨a, unwritten, fault⟩
  · exact .inl ⟨a, pos, trunc, read s.io⟩
  · exact .inr ⟨a, unwritten, fault s.io⟩

/-- On a written image a reader answers. -/
theorem Reader.of_written (h : Reader m) {s : State} (written : s.written 0) :
    ∃ a pos trunc, m s = .ok (a, s.moved pos trunc) := by
  rcases h.cases s with read | ⟨a, unwritten, -⟩
  · exact read
  · exact absurd unwritten (not_unwrittenAt written)

theorem Reader.pure {a : α} : Reader (pure a) := fun s => .inl ⟨a, s.cfg.pos, s.cfg.trunc, fun _ => rfl⟩

theorem Reader.bind {f : α → Op β} (hm : Reader m) (hf : ∀ a, Reader (f a)) : Reader (m >>= f) := by
  intro s
  rcases hm s with ⟨a, pos, trunc, read⟩ | ⟨k, unwritten, fault⟩
  · rcases hf a (s.moved pos trunc) with ⟨b, pos', trunc', read'⟩ | ⟨k, unwritten, fault⟩
    · exact .inl ⟨b, pos', trunc', fun io => (op_bind_ok _ _ (read io)).trans (read' io)⟩
    · exact .inr ⟨k, unwritten, fun io => (op_bind_ok _ _ (read io)).trans (fault io)⟩
  · exact .inr ⟨k, unwritten, fun io => op_bind_error _ _ (fault io)⟩

/-- The state may be looked at, except for its latches. -/
theorem Reader.get_bind {f : State → Op α} (latches : ∀ s io, f (s.setIo io) = f s) (hf : ∀ s, Reader (f s)) :
    Reader (get >>= f) := by
  intro s
  rcases hf s s with ⟨a, pos, trunc, read⟩ | ⟨k, unwritten, fault⟩
  · exact .inl ⟨a, pos, trunc, fun io => by rw [op_bind_ok _ _ (op_get _), latches, read]⟩
  · exact .inr ⟨k, unwritten, fun io => by rw [op_bind_ok _ _ (op_get _), latches, fault]⟩

theorem Reader.ite {c : Prop} [Decidable c] {x y : Op α} (hx : Reader x) (hy : Reader y) :
    Reader (if c then x else y) := by
  split
  · exact hx
  · exact hy

theorem Reader.imgU (n : Nat) : Reader (imgU n) := by
  intro s
  by_cases short : s.remaining < n
  · exact .inl ⟨0, s.cfg.len, true, fun io => imgU_truncated (s.setIo io) n short⟩
  · cases read : memRead s.img s.cfg.pos.toNat n 0 with
    | ok v =>
      refine .inl ⟨v, s.cfg.pos + BitVec.ofNat 32 n, s.cfg.trunc, fun io => ?_⟩
      have same : ¬ (s.setIo io).remaining < n := short
      simp only [Machine.imgU, if_neg same, State.setIo_img, State.setIo_cfg, read]
      rfl
    | error f =>
      obtain ⟨a, above, below, unwritten, rfl⟩ := memRead_error read
      refine .inr ⟨a, ⟨by unfold State.remaining at short; omega, unwritten⟩, fun io => ?_⟩
      have same : ¬ (s.setIo io).remaining < n := short
      simp only [Machine.imgU, if_neg same, State.setIo_img, State.setIo_cfg, read]

theorem Reader.imgPeek (k : Nat) : Reader (imgPeek k) := by
  intro s
  by_cases inside : s.cfg.pos.toNat + k < s.cfg.len.toNat
  · cases byte : s.img.read (s.cfg.pos.toNat + k) with
    | some b => exact .inl ⟨some b, s.cfg.pos, s.cfg.trunc, fun io => imgPeek_some (s.setIo io) k b inside byte⟩
    | none => exact .inr ⟨_, ⟨inside, byte⟩, fun io => imgPeek_unwritten (s.setIo io) k inside byte⟩
  · exact .inl ⟨none, s.cfg.pos, s.cfg.trunc, fun io => imgPeek_none (s.setIo io) k (Nat.not_lt.1 inside)⟩

theorem Reader.markTrunc : Reader (modify State.markTrunc) := fun s => .inl ⟨(), s.cfg.pos, true, fun _ => rfl⟩

end

/-! ### The readers -/

theorem reader_readSmart (one two : Int) : Reader (readSmart one two) := by
  refine (Reader.imgPeek 0).bind fun b => ?_
  cases b with
  | none => exact Reader.markTrunc.bind fun _ => .pure
  | some b =>
    refine .ite ((Reader.imgU 1).bind fun _ => .pure) ?_
    exact .get_bind (fun _ _ => rfl) fun _ => (Reader.imgU 2).bind fun _ => .ite .pure .pure

theorem reader_readSegments (n : Nat) : Reader (readSegments n) := by
  induction n with
  | zero => exact .pure
  | succ n ih => exact (Reader.imgU 2).bind fun _ => (Reader.imgU 2).bind fun _ => ih.bind fun _ => .pure

theorem reader_readEnvelope : Reader readEnvelope :=
  Reader.bind ((Reader.imgU 1).bind fun _ => (Reader.imgU 4).bind fun _ => (Reader.imgU 4).bind fun _ =>
    (Reader.imgU 1).bind fun _ => .pure) fun h => (reader_readSegments h.2).bind fun _ => .pure

theorem reader_readCutoff : Reader readCutoff :=
  (Reader.imgU 1).bind fun n => (reader_readSegments n).bind fun _ => .pure

theorem reader_readPair : Reader readPair := by
  refine (Reader.imgPeek 0).bind fun b => ?_
  cases b with
  | none => exact .pure
  | some b =>
    refine .ite ((Reader.imgU 1).bind fun _ => .pure) ?_
    exact reader_readEnvelope.bind fun _ => reader_readEnvelope.bind fun _ => .pure

theorem reader_readPartials (n : Nat) : Reader (readPartials n) := by
  induction n with
  | zero => exact .pure
  | succ n ih =>
    refine (reader_readSmart _ _).bind fun a => .ite .pure ?_
    exact (reader_readSmart _ _).bind fun _ => (reader_readSmart _ _).bind fun _ => ih.bind fun _ => .pure

theorem reader_readPoles (mask : Byte) (plan : List PoleAt) (F : Filter) : Reader (readPoles mask plan F) := by
  induction plan generalizing F with
  | nil => exact .pure
  | cons k rest ih =>
    exact Reader.bind ((Reader.imgU 2).bind fun _ => (Reader.imgU 2).bind fun _ => .pure) fun _ => ih _

/-- The fields of a filter header behind its first byte. -/
def readGains (c0 c1 : BitVec 4) : Op (Filter × Byte) := do
  let gain0 ← imgU 2
  let gain1 ← imgU 2
  let m ← imgU 1
  let mask := BitVec.ofNat 8 m
  pure (headerFilter c0 c1 (BitVec.ofNat 16 gain0) (BitVec.ofNat 16 gain1) mask, mask)

/-- A filter header is its first byte, and the other fields where that gives legal counts. -/
theorem readFilterHeader_eq : readFilterHeader = (do
    let b ← imgU 1
    if countsLegal (BitVec.ofNat 4 (b / 16)) (BitVec.ofNat 4 b) then
      readGains (BitVec.ofNat 4 (b / 16)) (BitVec.ofNat 4 b)
    else raiseFatal .reserved) := rfl

theorem reader_readGains (c0 c1 : BitVec 4) : Reader (readGains c0 c1) :=
  (Reader.imgU 2).bind fun _ => (Reader.imgU 2).bind fun _ => (Reader.imgU 1).bind fun _ => .pure

end Sys2Proof.Machine
end

section
/-! The filter heuristic (`40_config_load.md` R144). -/

namespace Sys2Proof.Machine

section
variable {s : State} {b n : Byte} {w : Nat} {f : Fault}

/-! ### The operation, case by case -/

/-- The first byte and the length that the heuristic goes on from. -/
abbrev State.plausible (s : State) (b : Byte) : Prop :=
  1 ≤ b.toNat ∧ b.toNat ≤ 4 ∧ Config.heurMinBytes ≤ s.remaining

theorem State.plausible.room (h : s.plausible b) : s.cfg.pos.toNat + 9 < s.cfg.len.toNat := by
  have bytes : 10 ≤ s.remaining := h.2.2
  unfold State.remaining at bytes
  omega

theorem looksEnv_of_empty (h : s.remaining = 0) : looksEnv s = .ok (false, s) := by
  rw [looksEnv, op_bind_ok _ _ (imgPeek_of_empty h)]
  rfl

theorem looksEnv_of_outside (peek : imgPeek 0 s = .ok (some b, s)) (outside : ¬ s.plausible b) :
    looksEnv s = .ok (false, s) := by
  rw [looksEnv, op_bind_ok _ _ peek]
  dsimp only
  rw [op_bind_ok _ _ (op_get s), if_neg outside]
  rfl

theorem looksEnv_of_unread (peek : imgPeek 0 s = .ok (some b, s)) (inside : s.plausible b)
    (read : memRead s.img (s.cfg.pos.toNat + 1) 4 0 = .error f) : looksEnv s = .error (.fault f) := by
  rw [looksEnv, op_bind_ok _ _ peek]
  dsimp only
  rw [op_bind_ok _ _ (op_get s), if_pos inside, read]
  rfl

theorem looksEnv_of_large (peek : imgPeek 0 s = .ok (some b, s)) (inside : s.plausible b)
    (read : memRead s.img (s.cfg.pos.toNat + 1) 4 0 = .ok w)
    (large : 10000000 < (BitVec.ofNat 32 w).toInt.natAbs) : looksEnv s = .ok (false, s) := by
  rw [looksEnv, op_bind_ok _ _ peek]
  dsimp only
  rw [op_bind_ok _ _ (op_get s), if_pos inside, read]
  dsimp only
  rw [Config.heurStartMax, if_pos large]
  rfl

/-- With a start value in bounds the segment count decides. -/
theorem looksEnv_of_small (peek : imgPeek 0 s = .ok (some b, s)) (inside : s.plausible b)
    (read : memRead s.img (s.cfg.pos.toNat + 1) 4 0 = .ok w)
    (small : (BitVec.ofNat 32 w).toInt.natAbs ≤ 10000000) :
    (s.img.read (s.cfg.pos.toNat + 9) = some n → looksEnv s = .ok (decide (n.toNat ≤ 15), s)) ∧
      (s.img.read (s.cfg.pos.toNat + 9) = none →
        looksEnv s = .error (.fault (.imgNoValue (s.cfg.pos.toNat + 9)))) := by
  have room := inside.room
  rw [looksEnv, op_bind_ok _ _ peek]
  dsimp only
  rw [op_bind_ok _ _ (op_get s), if_pos inside, read]
  dsimp only
  rw [Config.heurStartMax, if_neg (Nat.not_lt.2 small)]
  refine ⟨fun byte => ?_, fun unwritten => ?_⟩
  · rw [op_bind_ok _ _ (imgPeek_some s 9 n room byte)]
    rfl
  · rw [op_bind_error _ _ (imgPeek_unwritten s 9 room unwritten)]

/-- The heuristic moves nothing, and stops only at a byte that nothing has written. -/
theorem looksEnv_cases (s : State) :
    (∃ b, looksEnv s = .ok (b, s)) ∨ ∃ a, s.unwrittenAt a ∧ looksEnv s = .error (.fault (.imgNoValue a)) := by
  by_cases empty : s.remaining = 0
  · exact .inl ⟨_, looksEnv_of_empty empty⟩
  have room : s.cfg.pos.toNat < s.cfg.len.toNat := by
    unfold State.remaining at empty
    omega
  cases byte : s.img.read s.cfg.pos.toNat with
  | none =>
    refine .inr ⟨_, ⟨room, byte⟩, ?_⟩
    rw [looksEnv, op_bind_error _ _ (imgPeek_unwritten s 0 room byte)]
    rfl
  | some b =>
    have peek : imgPeek 0 s = .ok (some b, s) := imgPeek_some s 0 b room byte
    by_cases inside : s.plausible b
    · cases read : memRead s.img (s.cfg.pos.toNat + 1) 4 0 with
      | error f =>
        obtain ⟨a, above, below, unwritten, rfl⟩ := memRead_error read
        have room := inside.room
        exact .inr ⟨a, ⟨by omega, unwritten⟩, looksEnv_of_unread peek inside read⟩
      | ok w =>
        rcases Nat.lt_or_ge 10000000 (BitVec.ofNat 32 w).toInt.natAbs with large | small
        · exact .inl ⟨_, looksEnv_of_large peek inside read large⟩
        · cases count : s.img.read (s.cfg.pos.toNat + 9) with
          | some n => exact .inl ⟨_, (looksEnv_of_small peek inside read small).1 count⟩
          | none => exact .inr ⟨_, ⟨inside.room, count⟩, (looksEnv_of_small (n := 0) peek inside read small).2 count⟩
    · exact .inl ⟨_, looksEnv_of_outside peek inside⟩

/-! ### The instruction -/

/-- A result is latched. -/
theorem finish_latching {α : Type} {m : Op α} {latch : α → Ports → Ports} {a : α} {t : State} (h : m s = .ok (a, t)) :
    finish (latching m latch s) = .next (t.setIo (latch a t.io)) := by
  rw [latching, op_bind_ok _ _ h]
  rfl

theorem finish_latching_fault {α : Type} {m : Op α} {latch : α → Ports → Ports} (h : m s = .error (.fault f)) :
    finish (latching m latch s) = .fault f := by
  rw [latching, op_bind_error _ _ h]
  rfl

theorem exec_cfgLooksenv {answer : Bool} (h : looksEnv s = .ok (answer, s)) :
    exec .cfgLooksenv s = .next (s.setIo { s.io with looksEnv := answer }) := finish_latching h

theorem exec_cfgLooksenv_fault (h : looksEnv s = .error (.fault f)) : exec .cfgLooksenv s = .fault f :=
  finish_latching_fault h

/-- The latched answer is the operation's. -/
theorem looksEnv_of_exec {answer : Bool}
    (h : exec .cfgLooksenv s = .next (s.setIo { s.io with looksEnv := answer })) :
    looksEnv s = .ok (answer, s) := by
  rcases looksEnv_cases s with ⟨b, read⟩ | ⟨a, -, fault⟩
  · rw [exec_cfgLooksenv read] at h
    have latched : b = answer := congrArg (fun t : State => t.io.looksEnv) (Host.Outcome.next.inj h)
    rw [read, latched]
  · rw [exec_cfgLooksenv_fault fault] at h
    cases h

end

/-- Bytes behind the first. -/
theorem read_of_holds_cons {s : State} {b : Byte} {bs : List Byte} (h : s.holds (b :: bs)) :
    ∀ k < bs.length, s.img.read (s.cfg.pos.toNat + 1 + k) = bs[k]? := by
  intro k hk
  rw [Nat.add_assoc, Nat.add_comm 1, h.2 (k + 1) (by simpa using hk)]
  rfl

/-- The start value behind the first byte. -/
theorem memRead_start {s : State} {b : Byte} {w : Word} (h : s.holds (b :: bytes32 w)) :
    memRead s.img (s.cfg.pos.toNat + 1) 4 0 = .ok w.toNat :=
  bigEndian_bytes32 w ▸ memRead_of_bytes s.img _ 0 (bytes32 w) (read_of_holds_cons h)

/-- The heuristic on ten bytes. -/
theorem looksEnv_of_holds {s : State} {b n : Byte} {w x : Word}
    (h : s.holds (b :: bytes32 w ++ (bytes32 x ++ [n]))) : looksEnv s = .ok (looksLikeEnvelope b w n, s) := by
  have bytes : 10 ≤ s.remaining := remaining_of_holds h
  have peek : imgPeek 0 s = .ok (some b, s) := imgPeek_of_holds h
  have read := memRead_start (holds_append h).1
  have count : s.img.read (s.cfg.pos.toNat + 9) = some n := h.2 9 (Nat.lt_succ_self 9)
  by_cases inside : s.plausible b
  · obtain ⟨low, high, -⟩ := id inside
    rcases Nat.lt_or_ge 10000000 w.toInt.natAbs with large | small
    · rw [looksEnv_of_large peek inside read (by simpa using large)]
      simp [looksLikeEnvelope, Nat.not_le.2 large]
    · rw [(looksEnv_of_small peek inside read (by simpa using small)).1 count]
      simp [looksLikeEnvelope, low, high, small]
  · have outside : (decide (1 ≤ b.toNat) && decide (b.toNat ≤ 4)) = false := by
      rw [← Bool.decide_and, decide_eq_false_iff_not]
      exact fun ⟨low, high⟩ => inside ⟨low, high, bytes⟩
    rw [looksEnv_of_outside peek inside, looksLikeEnvelope, outside]
    rfl

end Sys2Proof.Machine

namespace Sys2Proof

open Machine

/-- Settles O42: the operation case by case, over the reads of the start value and of the segment count. -/
theorem looksLikeEnvelope : Obligations.LooksLikeEnvelope := by
  intro s
  refine ⟨fun b w0 w1 w2 w3 x1 x2 x3 x4 n h => ?_, fun empty => exec_cfgLooksenv (looksEnv_of_empty empty),
    fun b h outside => ?_, fun room unwritten => ?_, fun b bs low high bytes h => ⟨fun few unwritten => ?_, ?_⟩⟩
  · refine exec_cfgLooksenv (looksEnv_of_holds (x := be32 x1 x2 x3 x4) ?_)
    rw [bytes32_be32, bytes32_be32]
    exact h
  · refine exec_cfgLooksenv (looksEnv_of_outside (imgPeek_of_holds h) fun ⟨low, high, bytes⟩ => ?_)
    rcases outside with few | rfl | large
    · exact absurd bytes (Nat.not_le.2 few)
    · exact absurd low (by decide)
    · exact absurd high (Nat.not_le.2 large)
  · unfold State.remaining at room
    refine exec_cfgLooksenv_fault ?_
    rw [looksEnv, op_bind_error _ _ (imgPeek_unwritten s 0 (by omega) unwritten)]
    rfl
  · exact exec_cfgLooksenv_fault (looksEnv_of_unread (imgPeek_of_holds h) ⟨low, high, bytes⟩
      (memRead_of_unwritten s.img _ 0 4 bs few (read_of_holds_cons h) unwritten))
  · rintro w rfl small unwritten
    exact exec_cfgLooksenv_fault ((looksEnv_of_small (n := 0) (imgPeek_of_holds h) ⟨low, high, bytes⟩ (memRead_start h)
      (by simpa using small)).2 unwritten)

end Sys2Proof
end

section
/-! Envelope records and optional pairs as operations: whole, cut by the end of the image, or with a byte that nothing
has written (`40_config_load.md` R133, R134, R147; `20_memory.md` R63; `10_state.md` R50). -/

namespace Sys2Proof.Machine

/-! ### Unwritten bytes -/

/-- The operation faults at the first of these bytes that nothing has written, where they stand at the cursor up to
it. -/
def FaultsIn {α : Type} (m : Op α) (bs : List Byte) : Prop :=
  ∀ (s : State) (k : Nat), k < bs.length → bs.length ≤ s.remaining → s.holds (bs.take k) →
    s.img.read (s.cfg.pos.toNat + k) = none → m s = .error (.fault (.imgNoValue (s.cfg.pos.toNat + k)))

section
variable {α β : Type} {m : Op α} {f : α → Op β} {a : α} {bs cs : List Byte}

theorem FaultsIn.nil : FaultsIn m [] := fun _ _ below => absurd below (Nat.not_lt_zero _)

theorem FaultsIn.imgU (bs : List Byte) : FaultsIn (imgU bs.length) bs := by
  intro s k below room h unwritten
  have length : (bs.take k).length = k := List.length_take_of_le below.le
  have fault := imgU_of_unwritten s bs.length (bs.take k) room (by rwa [length]) h.2 (by rwa [length])
  rwa [length] at fault

/-- What follows the record does not matter. -/
theorem FaultsIn.left (hm : FaultsIn m bs) : FaultsIn (m >>= f) bs := fun s k below room h unwritten =>
  op_bind_error _ _ (hm s k below room h unwritten)

/-- A record of two parts, the first of which is read as `a`. -/
theorem FaultsIn.bind (hm : FaultsIn m bs) (read : ∀ s : State, s.holds bs → m s = .ok (a, s.advance bs.length))
    (hf : FaultsIn (f a) cs) : FaultsIn (m >>= f) (bs ++ cs) := by
  intro s k below room h unwritten
  rw [List.length_append] at below room
  rcases Nat.lt_or_ge k bs.length with first | second
  · rw [List.take_append_of_le_length first.le] at h
    exact op_bind_error _ _ (hm s k first (by omega) h unwritten)
  · obtain ⟨j, rfl⟩ := Nat.exists_eq_add_of_le second
    rw [List.take_length_add_append] at h
    obtain ⟨whole, behind⟩ := holds_append h
    have pos := advance_pos_toNat s bs.length whole.1
    rw [op_bind_ok _ _ (read s whole), hf (s.advance bs.length) j (by omega)
      (by rw [remaining_advance whole]; omega) behind (by rwa [pos, State.advance_img, Nat.add_assoc]), pos,
      Nat.add_assoc]

end

/-- The same for bytes at the cursor with nothing told of what follows. -/
theorem holds_nil_append {s : State} {bs : List Byte} (h : s.holds bs) : s.holds (bs ++ []) := by
  rwa [List.append_nil]

theorem faultsIn_readEnvHeader (w : Byte) (start stop : Word) (n : Byte) :
    FaultsIn readEnvHeader (encode (.imgEnvHeader w start stop n)) :=
  (FaultsIn.imgU [w]).bind (fun _ h => (imgU_byte h).1) <|
    (FaultsIn.imgU (bytes32 start)).bind (fun _ h => (imgU_32 (holds_nil_append h)).1) <|
      (FaultsIn.imgU (bytes32 stop)).bind (fun _ h => (imgU_32 (holds_nil_append h)).1) (FaultsIn.imgU [n]).left

theorem faultsIn_readSegments (segs : List (BitVec 16 × BitVec 16)) :
    FaultsIn (readSegments segs.length) (segmentBytes segs) := by
  induction segs with
  | nil => exact .nil
  | cons g segs ih =>
    rw [segmentBytes, List.flatMap_cons, encode, List.append_assoc]
    exact (FaultsIn.imgU (bytes16 g.1)).bind (fun _ h => (imgU_16 (holds_nil_append h)).1) <|
      (FaultsIn.imgU (bytes16 g.2)).bind (fun _ h => (imgU_16 (holds_nil_append h)).1) ih.left

section
variable {s : State} {w : Byte} {start stop : Word} {segs : List (BitVec 16 × BitVec 16)} {bs ys : List Byte}
  {E : Envelope} {t : State}

/-- A segment count of one byte. -/
theorem toNat_count (short : segs.length ≤ 255) : (BitVec.ofNat 8 segs.length).toNat = segs.length := by
  rw [BitVec.toNat_ofNat]
  omega

theorem faultsIn_readEnvelope (short : segs.length ≤ 255) :
    FaultsIn readEnvelope (envelopeBytes w start stop segs) := by
  refine (faultsIn_readEnvHeader w start stop _).bind (fun _ h => (readEnvHeader_of_holds (holds_nil_append h)).1) ?_
  dsimp only
  rw [toNat_count short]
  exact (faultsIn_readSegments segs).left

theorem faultsIn_readCutoff (short : segs.length ≤ 255) :
    FaultsIn readCutoff (BitVec.ofNat 8 segs.length :: segmentBytes segs) := by
  refine (FaultsIn.imgU [BitVec.ofNat 8 segs.length]).bind (fun _ h => (imgU_byte h).1) ?_
  rw [toNat_count short]
  exact (faultsIn_readSegments segs).left

/-! ### Whole records -/

/-- A cutoff envelope that stands whole at the cursor (`40_config_load.md` R147). -/
theorem readCutoff_of_holds (short : segs.length ≤ 255)
    (h : s.holds (BitVec.ofNat 8 segs.length :: segmentBytes segs ++ ys)) :
    readCutoff s = .ok (⟨.off, 0, 0, segmentsOf segs⟩, s.advance (1 + 4 * segs.length)) ∧
      (s.advance (1 + 4 * segs.length)).holds ys := by
  obtain ⟨count, h⟩ := imgU_byte h
  rw [toNat_count short] at count
  obtain ⟨segments, h⟩ := readSegments_of_holds h
  rw [State.advance_advance] at segments h
  exact ⟨by rw [readCutoff, op_bind_ok _ _ count, op_bind_ok _ _ segments]; rfl, h⟩

/-! ### Records that the end of the image cuts -/

/-- The bytes stand at the cursor, and fewer than `n` others remain. -/
abbrev State.cutBehind (s : State) (bs : List Byte) (n : Nat) : Prop := s.holds bs ∧ s.remaining < bs.length + n

theorem cutBehind_append {n : Nat} (h : s.cutBehind (bs ++ ys) n) :
    s.holds bs ∧ (s.advance bs.length).cutBehind ys n := by
  obtain ⟨h, cut⟩ := h
  obtain ⟨first, second⟩ := holds_append h
  refine ⟨first, second, ?_⟩
  have := remaining_of_holds h
  rw [List.length_append] at cut this
  rw [remaining_advance first]
  omega

theorem imgU_16_cutBehind {v : BitVec 16} {n : Nat} (h : s.cutBehind (bytes16 v ++ ys) n) :
    imgU 2 s = .ok (v.toNat, s.advance 2) ∧ (s.advance 2).cutBehind ys n :=
  ⟨(imgU_16 h.1).1, (cutBehind_append h).2⟩

/-- Two 16-bit fields with at most the first of them left. -/
theorem cutPair_of_left {x : Option (BitVec 16)} (h : s.cutBehind (x.elim [] bytes16) 2) : CutPair s (x.getD 0) := by
  cases x with
  | none => exact cutPair_of_few h.2
  | some x => exact cutPair_of_first h.1 h.2

/-- Behind the first segment nothing is left. -/
theorem cutSegments_succ (n : Nat) (dur : Option (BitVec 16)) :
    cutSegments (n + 1) dur = ⟨dur.getD 0, 0⟩ :: List.replicate n ⟨0, 0⟩ := by
  rw [cutSegments, List.range_succ_eq_map, List.map_cons, List.map_map]
  simp [Function.comp_def]

theorem readSegments_truncate (n : Nat) :
    readSegments n s.truncate = .ok (List.replicate n ⟨0, 0⟩, s.truncate) := by
  induction n with
  | zero => rfl
  | succ n ih =>
    rw [readSegments, op_bind_ok _ _ (imgU_truncate Nat.two_pos), op_bind_ok _ _ (imgU_truncate Nat.two_pos),
      op_bind_ok _ _ ih]
    rfl

/-- Segments that end behind some whole ones and maybe a duration. -/
theorem readSegments_cut_behind {n : Nat} {dur : Option (BitVec 16)} (more : segs.length < n)
    (h : s.cutBehind (segmentBytes segs ++ dur.elim [] bytes16) 2) :
    readSegments n s = .ok (segmentsOf segs ++ cutSegments (n - segs.length) dur, s.truncate) := by
  induction segs generalizing s n with
  | nil =>
    obtain ⟨n, rfl⟩ := Nat.exists_eq_add_one_of_ne_zero (Nat.ne_of_gt more)
    obtain ⟨t, first, second⟩ := cutPair_of_left h
    rw [readSegments, op_bind_ok _ _ first, op_bind_ok _ _ second, op_bind_ok _ _ (readSegments_truncate n),
      List.length_nil, Nat.sub_zero, cutSegments_succ]
    simp [segmentsOf]
  | cons g segs ih =>
    obtain ⟨n, rfl⟩ := Nat.exists_eq_add_one_of_ne_zero (Nat.ne_zero_of_lt more)
    rw [segmentBytes, List.flatMap_cons, encode, List.append_assoc, List.append_assoc] at h
    obtain ⟨dur, h⟩ := imgU_16_cutBehind h
    obtain ⟨peak, h⟩ := imgU_16_cutBehind h
    have rest := ih (n := n) (Nat.lt_of_succ_lt_succ more) h
    rw [readSegments, op_bind_ok _ _ dur, op_bind_ok _ _ peak, op_bind_ok _ _ rest]
    simp [segmentsOf]

theorem readEnvelope_cut_behind {n : Byte} {dur : Option (BitVec 16)} (more : segs.length < n.toNat)
    (h : s.cutBehind (encode (.imgEnvHeader w start stop n) ++ (segmentBytes segs ++ dur.elim [] bytes16)) 2) :
    readEnvelope s =
      .ok (⟨waveformOf w.toNat, start, stop, segmentsOf segs ++ cutSegments (n.toNat - segs.length) dur⟩,
        s.truncate) := by
  obtain ⟨header, -⟩ := readEnvHeader_of_holds h.1
  have segments := readSegments_cut_behind (s := s.advance 10) more (cutBehind_append h).2
  rw [readEnvelope, op_bind_ok _ _ header, op_bind_ok _ _ segments]
  rfl

theorem readCutoff_cut_behind {n : Byte} {dur : Option (BitVec 16)} (more : segs.length < n.toNat)
    (h : s.cutBehind (n :: (segmentBytes segs ++ dur.elim [] bytes16)) 2) :
    readCutoff s = .ok (⟨.off, 0, 0, segmentsOf segs ++ cutSegments (n.toNat - segs.length) dur⟩, s.truncate) := by
  obtain ⟨count, -⟩ := imgU_byte h.1
  have segments := readSegments_cut_behind (s := s.advance 1) more (cutBehind_append (bs := [n]) h).2
  rw [readCutoff, op_bind_ok _ _ count, op_bind_ok _ _ segments]
  rfl

/-- An envelope cut in its header has no segments. -/
theorem readEnvelope_of_cut_header {x : Waveform} (h : readEnvHeader s = .ok ((⟨x, start, stop, []⟩, 0), t)) :
    readEnvelope s = .ok (⟨x, start, stop, []⟩, t) := by
  rw [readEnvelope, op_bind_ok _ _ h]
  rfl

theorem readCutoff_of_empty (h : s.remaining = 0) : readCutoff s = .ok (⟨.off, 0, 0, []⟩, s.truncate) := by
  rw [readCutoff, op_bind_ok _ _ (imgU_truncated s 1 (by omega))]
  rfl

/-! ### The instructions -/

theorem exec_cfgEnvrec (h : readEnvelope s = .ok (E, t)) :
    exec .cfgEnvrec s = .next (t.setIo { t.io with env1 := E }) := finish_latching h

theorem exec_cfgEnvrec_fault {f : Fault} (h : readEnvelope s = .error (.fault f)) : exec .cfgEnvrec s = .fault f :=
  finish_latching_fault h

theorem exec_cfgCutenv (h : readCutoff s = .ok (E, t)) :
    exec .cfgCutenv s = .next (t.setIo { t.io with env1 := E }) := finish_latching h

theorem exec_cfgCutenv_fault {f : Fault} (h : readCutoff s = .error (.fault f)) : exec .cfgCutenv s = .fault f :=
  finish_latching_fault h

theorem exec_cfgOptpair {p : EnvPair} (h : readPair s = .ok (p, t)) : exec .cfgOptpair s =
    .next (t.setIo { t.io with present := p.present, env1 := p.first, env2 := p.second }) := finish_latching h

theorem exec_cfgOptpair_fault {f : Fault} (h : readPair s = .error (.fault f)) : exec .cfgOptpair s = .fault f :=
  finish_latching_fault h

end

/-- Settles O33: each field is read whole, cut, or faults; behind a cut every later field is 0. -/
theorem envelopeRecords : Obligations.EnvelopeRecords := by
  intro s w start stop segs
  refine ⟨fun short h => ?_, fun short h => ?_, fun empty => ⟨?_, ?_⟩, fun h few => ?_, fun h few => ?_,
    fun h few => ?_, fun n dur more => ⟨fun h few => ?_, fun h few => ?_⟩, fun k short unwritten => ⟨?_, ?_⟩⟩
  · exact exec_cfgEnvrec (readEnvelope_of_holds short (holds_nil_append h)).1
  · exact exec_cfgCutenv (readCutoff_of_holds short (holds_nil_append h)).1
  · exact exec_cfgEnvrec (readEnvelope_of_cut_header (readEnvHeader_of_empty empty))
  · exact exec_cfgCutenv (readCutoff_of_empty empty)
  · exact exec_cfgEnvrec (readEnvelope_of_cut_header (readEnvHeader_cut_start h few))
  · exact exec_cfgEnvrec (readEnvelope_of_cut_header (readEnvHeader_cut_stop h few))
  · exact exec_cfgEnvrec (readEnvelope_of_cut_header (readEnvHeader_cut_count h few))
  · exact exec_cfgEnvrec (readEnvelope_cut_behind more ⟨h, few⟩)
  · exact exec_cfgCutenv (readCutoff_cut_behind more ⟨h, few⟩)
  · exact fun below room h => exec_cfgEnvrec_fault (faultsIn_readEnvelope short s k below room h unwritten)
  · exact fun below room h => exec_cfgCutenv_fault (faultsIn_readCutoff short s k below room h unwritten)

/-! ### Optional pairs -/

section
variable {s : State} {b : Byte} {ys : List Byte}

/-- No pair at the end of the image (`30_encoding.md` R96; `20_memory.md` R63). -/
theorem readPair_of_empty (h : s.remaining = 0) : readPair s = .ok (EnvPair.blank, s) := by
  rw [readPair, op_bind_ok _ _ (imgPeek_of_empty h)]
  rfl

/-- No pair at a zero byte, which is consumed. -/
theorem readPair_of_zero (h : s.holds (0 :: ys)) : readPair s = .ok (EnvPair.blank, s.advance 1) := by
  rw [readPair, op_bind_ok _ _ (imgPeek_of_holds h)]
  dsimp only
  rw [if_pos rfl, op_bind_ok _ _ (imgU_byte h).1]
  rfl

/-- Two records at any other byte. -/
theorem readPair_of_present (h : s.holds (b :: ys)) (present : b ≠ 0) : readPair s =
    (do let first ← readEnvelope
        let second ← readEnvelope
        pure ⟨true, first, second⟩ : Op EnvPair) s := by
  rw [readPair, op_bind_ok _ _ (imgPeek_of_holds h)]
  dsimp only
  rw [if_neg present]

end

/-- Settles O35: absent, or two envelope records; the latches between them are not read. -/
theorem optionalPair : Obligations.OptionalPair := by
  intro s
  refine ⟨fun empty => exec_cfgOptpair (readPair_of_empty empty), fun h => exec_cfgOptpair (readPair_of_zero h),
    fun w1 w2 start1 stop1 start2 stop2 segs1 segs2 present short1 short2 h => ?_, fun b present h => ?_⟩
  · obtain ⟨first, behind⟩ := readEnvelope_of_holds short1 h
    obtain ⟨second, -⟩ := readEnvelope_of_holds short2 (holds_nil_append behind)
    have pair : readPair s = .ok (⟨true, envelopeOf w1 start1 stop1 segs1, envelopeOf w2 start2 stop2 segs2⟩,
        s.advance (20 + 4 * (segs1.length + segs2.length))) := by
      have sum : 10 + 4 * segs1.length + (10 + 4 * segs2.length) = 20 + 4 * (segs1.length + segs2.length) := by omega
      rw [readPair_of_present h present, op_bind_ok _ _ first, op_bind_ok _ _ second, State.advance_advance, sum]
      rfl
    exact exec_cfgOptpair pair
  · have pair := readPair_of_present h present
    rcases reader_readEnvelope s with ⟨E1, pos, trunc, first⟩ | ⟨a, -, fault⟩
    · have read : readEnvelope s = .ok (E1, s.moved pos trunc) := first s.io
      rw [op_bind_ok _ _ read] at pair
      rw [exec_cfgEnvrec read, andThen]
      rcases reader_readEnvelope (s.moved pos trunc) with ⟨E2, pos', trunc', second⟩ | ⟨a, -, fault⟩
      · have read' : readEnvelope (s.moved pos trunc) = .ok (E2, (s.moved pos trunc).moved pos' trunc') := second s.io
        rw [op_bind_ok _ _ read'] at pair
        rw [exec_cfgOptpair pair, exec_cfgEnvrec (second _)]
        rfl
      · have fault' : readEnvelope (s.moved pos trunc) = .error (.fault (.imgNoValue a)) := fault s.io
        rw [op_bind_error _ _ fault'] at pair
        rw [exec_cfgOptpair_fault pair, exec_cfgEnvrec_fault (fault _)]
        rfl
    · have fault' : readEnvelope s = .error (.fault (.imgNoValue a)) := fault s.io
      rw [op_bind_error _ _ fault'] at pair
      rw [exec_cfgOptpair_fault pair, exec_cfgEnvrec_fault fault']
      rfl

end Sys2Proof.Machine
end

section
/-! The oscillator list, the echo record, the times, the slots, the loop region and normalisation as operations
(`40_config_load.md` R131, R135 to R137, R148, R149; `20_memory.md` R63; log 14). -/

namespace Sys2Proof.Machine

/-- An operation of two parts that answers did both. -/
theorem op_bind_eq_ok {α β : Type} {m : Op α} {f : α → Op β} {s : State} {r : β × State} (h : (m >>= f) s = .ok r) :
    ∃ a t, m s = .ok (a, t) ∧ f a t = .ok r := by
  rcases op_bind_cases m f s with ⟨a, t, ran, both⟩ | ⟨e, -, both⟩
  · exact ⟨a, t, ran, both.symm.trans h⟩
  · cases both.symm.trans h

/-! ### The oscillator list -/

/-- The bytes of an entry of the oscillator list. -/
def entryBytes (e : Smart × Smart × Smart) : List Byte := encodeSmart e.1 ++ encodeSmart e.2.1 ++ encodeSmart e.2.2

/-- The partial of an entry. -/
def entryOf (e : Smart × Smart × Smart) : Partial := partialOf e.1 e.2.1 e.2.2

section
variable {s t : State} {l : List (Smart × Smart × Smart)} {bs ys : List Byte}

/-- One entry, and the list behind it. -/
theorem readPartials_entry {e : Smart × Smart × Smart} {rest : List Partial} {n : Nat} (present : e.1.isZero = false)
    (h : s.holds (entryBytes e ++ ys)) (read : readPartials n (s.advance (entryBytes e).length) = .ok (rest, t)) :
    readPartials (n + 1) s = .ok (entryOf e :: rest, t) := by
  rw [entryBytes, List.append_assoc, List.append_assoc] at h
  obtain ⟨amplitude, h⟩ := readUSmart_of_holds h
  obtain ⟨pitch, h⟩ := readSSmart_of_holds h
  obtain ⟨delay, -⟩ := readUSmart_of_holds h
  rw [entryBytes, List.length_append, List.length_append, ← State.advance_advance, ← State.advance_advance] at read
  rw [readPartials, op_bind_ok _ _ amplitude, if_neg (unsignedSmart_range present).2, op_bind_ok _ _ pitch,
    op_bind_ok _ _ delay, op_bind_ok _ _ read]
  rfl

/-- Entries in turn, and the list behind them. -/
theorem readPartials_entries {rest : List Partial} {n : Nat} (present : ∀ e ∈ l, e.1.isZero = false)
    (h : s.holds (l.flatMap entryBytes ++ ys))
    (read : readPartials n (s.advance (l.flatMap entryBytes).length) = .ok (rest, t)) :
    readPartials (l.length + n) s = .ok (l.map entryOf ++ rest, t) := by
  induction l generalizing s with
  | nil => simpa using read
  | cons e l ih =>
    rw [List.flatMap_cons, List.append_assoc] at h
    rw [List.flatMap_cons, List.length_append, ← State.advance_advance] at read
    rw [List.length_cons, Nat.succ_add]
    exact readPartials_entry (present e List.mem_cons_self) h
      (ih (fun e' h' => present e' (List.mem_cons_of_mem _ h')) (holds_append h).2 read)

theorem unsignedSmart_of_isZero {z : Smart} (zero : z.isZero = true) : unsignedSmart z = 0 := by
  cases z with
  | one v => rw [unsignedSmart_one, of_decide_eq_true zero]; rfl
  | two v => rw [unsignedSmart_two, of_decide_eq_true zero]; rfl

/-- An amplitude of 0 ends the list, in either form (`30_encoding.md` R97). -/
theorem readPartials_end {z : Smart} {n : Nat} (zero : z.isZero = true) (h : s.holds (encodeSmart z)) :
    readPartials (n + 1) s = .ok ([], s.advance (encodeSmart z).length) := by
  rw [readPartials, op_bind_ok _ _ (readUSmart_of_holds (holds_nil_append h)).1,
    if_pos (unsignedSmart_of_isZero zero)]
  rfl

theorem readPartials_truncate (n : Nat) : readPartials n s.truncate = .ok ([], s.truncate) := by
  cases n with
  | zero => rfl
  | succ n =>
    rw [readPartials, op_bind_ok _ _ readUSmart_truncate]
    rfl

/-- A list that is cut in an entry reads no further one. -/
theorem readPartials_of_cut_entry {cut : List Partial} (h : readPartials 1 s = .ok (cut, s.truncate)) (n : Nat) :
    readPartials (n + 1) s = .ok (cut, s.truncate) := by
  rw [readPartials] at h ⊢
  obtain ⟨a, t, amplitude, h⟩ := op_bind_eq_ok h
  rw [op_bind_ok _ _ amplitude]
  by_cases zero : a = 0
  · rw [if_pos zero] at h ⊢
    exact h
  · rw [if_neg zero] at h ⊢
    obtain ⟨p, u, pitch, h⟩ := op_bind_eq_ok h
    obtain ⟨d, v, delay, h⟩ := op_bind_eq_ok h
    cases h
    rw [op_bind_ok _ _ pitch, op_bind_ok _ _ delay, op_bind_ok _ _ (readPartials_truncate n)]
    rfl

/-- A list that is cut behind whole entries. -/
theorem readPartials_cut_behind {cut : List Partial} {n : Nat} (room : l.length < n)
    (present : ∀ e ∈ l, e.1.isZero = false) (h : s.holds (l.flatMap entryBytes ++ ys))
    (read : readPartials 1 (s.advance (l.flatMap entryBytes).length) = .ok (cut, s.truncate)) :
    readPartials n s = .ok (l.map entryOf ++ cut, s.truncate) := by
  obtain ⟨n, rfl⟩ := Nat.exists_eq_add_of_lt room
  exact readPartials_entries present h (readPartials_of_cut_entry read n)

/-- The list is stored in the slot. -/
theorem cfgPartials_of_read {v : Fin 10} {partials : List Partial} (h : readPartials 10 s = .ok (partials, t)) :
    cfgPartials v s = .ok ((), t.mapVoice v fun V => { V with partials := partials }) := by
  rw [cfgPartials, op_bind_ok _ _ (show readPartials Config.maxPartials s = _ from h)]
  rfl

theorem exec_cfgPartials {partials : List Partial} (h : readPartials 10 s = .ok (partials, t)) :
    exec .cfgPartials s = .next (t.mapVoice s.ldr.slot fun V => { V with partials := partials }) :=
  congrArg finish (cfgPartials_of_read h)

end

/-- A whole list: behind fewer than ten entries its terminator stands (`30_encoding.md` R97). -/
theorem readPartials_of_holds {s : State} {l : List (Smart × Smart × Smart)} {z : Smart} {bs : List Byte}
    (present : ∀ e ∈ l, e.1.isZero = false) (few : l.length ≤ 10) (zero : z.isZero = true)
    (whole : bs = if l.length < 10 then l.flatMap entryBytes ++ encodeSmart z else l.flatMap entryBytes)
    (h : s.holds bs) : readPartials 10 s = .ok (l.map entryOf, s.advance bs.length) := by
  by_cases room : l.length < 10
  · rw [if_pos room] at whole
    subst whole
    obtain ⟨n, count⟩ := Nat.exists_eq_add_of_lt room
    have last := readPartials_end (n := n) zero (holds_append h).2
    rw [State.advance_advance, ← List.length_append] at last
    have list := readPartials_entries present h last
    rwa [List.append_nil, ← Nat.add_assoc, ← count] at list
  · rw [if_neg room] at whole
    subst whole
    have full : l.length + 0 = 10 := by omega
    have list := readPartials_entries (n := 0) present (holds_nil_append h) rfl
    rwa [List.append_nil, full] at list

/-- Settles O36: the entries in turn, and behind them the terminator, the tenth entry's end, or a cut. -/
theorem oscillatorList : Obligations.OscillatorList := by
  intro s l z
  dsimp only
  intro present
  refine ⟨fun few zero h => exec_cfgPartials (readPartials_of_holds present few zero rfl h),
    fun a p rest room nonzero cut => ⟨fun h => ?_, fun h => ?_, fun h => ?_⟩⟩
  · exact exec_cfgPartials (readPartials_cut_behind room present (ends_iff.1 h).1
      (readPartials_cut_amplitude cut (ends_append h).2))
  · rw [List.append_assoc] at h
    exact exec_cfgPartials (readPartials_cut_behind room present (ends_iff.1 h).1
      (readPartials_cut_pitch cut nonzero (ends_append h).2))
  · rw [List.append_assoc, List.append_assoc] at h
    exact exec_cfgPartials (readPartials_cut_behind room present (ends_iff.1 h).1
      (readPartials_cut_delay cut nonzero (List.append_assoc .. ▸ (ends_append h).2)))

/-! ### Echo and times -/

section
variable {s t u : State} {v : Fin 10}

/-- Both fields are stored in the slot. -/
theorem cfgEchorec_of_reads {delay mix : Int} (first : readUSmart s = .ok (delay, t))
    (second : readUSmart t = .ok (mix, u)) : cfgEchorec v s = .ok ((), u.mapVoice v fun V =>
      { V with echoDelay := BitVec.ofInt 15 delay, echoMix := BitVec.ofInt 15 mix }) := by
  rw [cfgEchorec, op_bind_ok _ _ first, op_bind_ok _ _ second]
  rfl

theorem cfgEchorec_of_holds {delay mix : Smart} (h : s.holds (encode (.imgEcho delay mix))) :
    cfgEchorec v s = .ok ((), (s.advance (encode (.imgEcho delay mix)).length).mapVoice v fun V =>
      { V with echoDelay := BitVec.ofInt 15 (unsignedSmart delay), echoMix := BitVec.ofInt 15 (unsignedSmart mix) }) := by
  obtain ⟨first, behind⟩ := readUSmart_of_holds h
  rw [encode, List.length_append, ← State.advance_advance]
  exact cfgEchorec_of_reads first (readUSmart_of_holds (holds_nil_append behind)).1

theorem cfgTimes_of_reads {duration start : BitVec 16} (first : imgU 2 s = .ok (duration.toNat, t))
    (second : imgU 2 t = .ok (start.toNat, u)) :
    cfgTimes v s = .ok ((), u.mapVoice v fun V => { V with duration := duration, start := start }) := by
  rw [cfgTimes, op_bind_ok _ _ first, op_bind_ok _ _ second]
  simp

theorem cfgTimes_of_holds {duration start : BitVec 16} (h : s.holds (encode (.imgTimes duration start))) :
    cfgTimes v s = .ok ((), (s.advance 4).mapVoice v fun V => { V with duration := duration, start := start }) := by
  obtain ⟨first, behind⟩ := imgU_16 h
  exact cfgTimes_of_reads first (State.advance_advance (s := s) 2 2 ▸ (imgU_16 (holds_nil_append behind)).1)

end

/-- Settles O37: two smart integers, whole or cut. -/
theorem echoRecord : Obligations.EchoRecord := by
  intro s delay mix rest
  refine ⟨fun h => congrArg finish (cfgEchorec_of_holds h), fun cut h => ?_, fun cut h => ?_⟩
  · exact congrArg finish (cfgEchorec_of_reads (readUSmart_cut cut h) readUSmart_truncate)
  · exact congrArg finish (cfgEchorec_of_reads (readUSmart_of_holds (ends_iff.1 h).1).1
      (readUSmart_cut cut (ends_append h).2))

/-- Settles O38: two fields of 16 bits, whole or cut. -/
theorem timesRecord : Obligations.TimesRecord := by
  intro s duration start
  refine ⟨fun h => congrArg finish (cfgTimes_of_holds h), fun h few => ?_, fun few => ?_⟩
  · obtain ⟨t, first, second⟩ := cutPair_of_first h few
    exact congrArg finish (cfgTimes_of_reads (start := 0) first second)
  · obtain ⟨t, first, second⟩ := cutPair_of_few few
    exact congrArg finish (cfgTimes_of_reads (start := 0) first second)

/-! ### Loop region, slots, normalisation -/

section
variable {s : State}

/-- The loop region where four bytes remain (`40_config_load.md` R148). -/
theorem cfgLooprec_of_holds {first last : BitVec 16} (h : s.holds (encode (.imgLoop first last))) :
    cfgLooprec s = .ok ((), (s.advance 4).setLoop first last) := by
  have room : 4 ≤ s.remaining := remaining_of_holds h
  obtain ⟨begins, behind⟩ := imgU_16 h
  obtain ⟨ends, -⟩ := imgU_16 (holds_nil_append behind)
  rw [cfgLooprec, op_bind_ok _ _ (op_get s), if_pos room, op_bind_ok _ _ begins, op_bind_ok _ _ ends]
  simp

theorem cfgLooprec_of_few (few : s.remaining < 4) : cfgLooprec s = .ok ((), s.setLoop 0 0) := by
  rw [cfgLooprec, op_bind_ok _ _ (op_get s), if_neg (Nat.not_le.2 few)]
  rfl

/-- Settles O43: by the bytes that remain. -/
theorem loopRecord : Obligations.LoopRecord := fun _ _ _ =>
  ⟨fun h => congrArg finish (cfgLooprec_of_holds h), fun few => congrArg finish (cfgLooprec_of_few few)⟩

variable {b : Byte} {ys : List Byte} {v : Fin 10}

/-- A slot at the end of the image is empty, and marks the truncation (`40_config_load.md` R131). -/
theorem cfgSlot_of_empty (h : s.remaining = 0) : cfgSlot v s = .ok ((), s.markTrunc.setSlot v Slot.blank) := by
  rw [cfgSlot, op_bind_ok _ _ (imgPeek_of_empty h)]
  rfl

/-- A zero byte is an empty slot. -/
theorem cfgSlot_of_zero (h : s.holds (0 :: ys)) : cfgSlot v s = .ok ((), (s.advance 1).setSlot v Slot.blank) := by
  rw [cfgSlot, op_bind_ok _ _ (imgPeek_of_holds h)]
  dsimp only
  rw [if_pos rfl, op_bind_ok _ _ (imgU_byte h).1]
  rfl

/-- Any other byte begins a voice. -/
theorem cfgSlot_of_voice (h : s.holds (b :: ys)) (present : b ≠ 0) :
    cfgSlot v s = cfgVoice v (s.setSlot v ⟨true, s.voiceOf v⟩) := by
  rw [cfgSlot, op_bind_ok _ _ (imgPeek_of_holds h)]
  dsimp only
  rw [if_neg present]
  rfl

end

/-- Settles O44: by the byte at the cursor. -/
theorem slotRecord : Obligations.SlotRecord := fun _ _ =>
  ⟨fun empty => congrArg finish (cfgSlot_of_empty empty), fun h => congrArg finish (cfgSlot_of_zero h),
    fun h present => congrArg finish (cfgSlot_of_voice h present)⟩

/-- An envelope without segments whose start and end differ gets one; no other changes (`40_config_load.md` R149). -/
theorem Envelope.normalise_eq (E : Envelope) (duration : BitVec 16) : E.normalise duration =
    if E.segs = [] ∧ E.start ≠ E.stop then { E with segs := [⟨duration, E.stop⟩] } else E := by
  simp only [Envelope.normalise, List.isEmpty_iff]

/-- Settles O46: each base envelope and each envelope of a present pair by its equation. -/
theorem normalise : Obligations.Normalise := by
  intro s
  simp only [← Envelope.normalise_eq]
  rfl

end Sys2Proof.Machine
end

section
/-! The filter record as an operation, whole or cut (`40_config_load.md` R145; `30_encoding.md` R100, R106 to R108;
`20_memory.md` R63). -/

namespace Sys2Proof.Machine

/-! ### The poles that follow a header -/

/-- The pole count of a channel. -/
def countOf (c0 c1 : BitVec 4) (feedback : Bool) : BitVec 4 := if feedback then c1 else c0

theorem mem_polesBelow {c : BitVec 4} {p : Fin 4} : p ∈ polesBelow c ↔ p.val < c.toNat := by
  revert c p
  decide

theorem nodup_polesBelow (c : BitVec 4) : (polesBelow c).Nodup :=
  List.Sublist.nodup (List.take_sublist _ _) (by decide)

theorem polesBelow_eq (c : BitVec 4) :
    polesBelow c = ([0, 1, 2, 3] : List (Fin 4)).filter fun p => decide (p.val < c.toNat) := by
  revert c
  decide

section
variable {c0 c1 : BitVec 4} {m : Byte} {k j : PoleAt}

/-- The pairs of a channel and a pole index that two counts give. -/
def channelPoles (c0 c1 : BitVec 4) : List (Bool × Fin 4) :=
  (polesBelow c0).map (fun p => (false, p)) ++ (polesBelow c1).map (fun p => (true, p))

theorem mem_channelPoles {q : Bool × Fin 4} : q ∈ channelPoles c0 c1 ↔ q.2.val < (countOf c0 c1 q.1).toNat := by
  obtain ⟨feedback, p⟩ := q
  cases feedback <;> simp [channelPoles, countOf, mem_polesBelow]

theorem nodup_channelPoles : (channelPoles c0 c1).Nodup := by
  refine List.Nodup.append ((nodup_polesBelow c0).map fun _ _ h => (Prod.mk.inj h).2)
    ((nodup_polesBelow c1).map fun _ _ h => (Prod.mk.inj h).2) ?_
  simp [List.disjoint_left]

theorem polePlan_eq : polePlan c0 c1 m = (channelPoles c0 c1).map (fun q => ⟨false, q.1, q.2⟩)
    ++ ((channelPoles c0 c1).filter fun q => maskBit m q.1 q.2).map fun q => ⟨true, q.1, q.2⟩ := rfl

/-- The poles of a plan: those below the count, at endpoint 1 only the flagged ones (`30_encoding.md` R100, R107). -/
theorem mem_polePlan : k ∈ polePlan c0 c1 m ↔
    k.p.val < (countOf c0 c1 k.feedback).toNat ∧ (k.last = true → maskBit m k.feedback k.p = true) := by
  obtain ⟨last, feedback, p⟩ := k
  cases last <;> simp [polePlan_eq, mem_channelPoles]

theorem nodup_polePlan : (polePlan c0 c1 m).Nodup := by
  refine List.Nodup.append (nodup_channelPoles.map fun q r h => ?_) ((nodup_channelPoles.filter _).map fun q r h => ?_)
    fun k first second => ?_
  · simpa [Prod.ext_iff] using h
  · simpa [Prod.ext_iff] using h
  · obtain ⟨q, -, rfl⟩ := List.mem_map.1 first
    obtain ⟨r, -, same⟩ := List.mem_map.1 second
    cases same

/-! ### Poles stored -/

/-- The poles of a plan stored in turn. -/
def storePoles (m : Byte) (x : PoleAt → Pole) (plan : List PoleAt) (F : Filter) : Filter :=
  plan.foldl (fun F k => storePole m k (x k) F) F

/-- Whether storing a pole writes a register. -/
abbrev Writes (m : Byte) (k j : PoleAt) : Prop :=
  j.feedback = k.feedback ∧ j.p = k.p ∧ (j.last = k.last ∨ j.last = true ∧ maskBit m k.feedback k.p = false)

variable {x y : PoleAt → Pole} {plan : List PoleAt} {F : Filter}

@[simp] theorem header_storePoles : (storePoles m x plan F).header = F.header :=
  foldl_const Filter.header (fun F k => header_storePole F m k (x k)) plan F

theorem storePoles_congr (same : ∀ k ∈ plan, x k = y k) : storePoles m x plan F = storePoles m y plan F :=
  List.foldl_ext _ _ F fun F k h => by rw [same k h]

theorem pole_storePoles_other (other : ∀ k ∈ plan, ¬ Writes m k j) : (storePoles m x plan F).pole j = F.pole j := by
  induction plan generalizing F with
  | nil => rfl
  | cons k rest ih =>
    obtain ⟨first, others⟩ := List.forall_mem_cons.1 other
    exact (ih others).trans ((pole_storePole F m k j _).trans (if_neg first))

/-- A register that one pole of the plan writes. -/
theorem pole_storePoles_of_writes (mem : k ∈ plan) (writes : Writes m k j)
    (only : ∀ i ∈ plan, Writes m i j → i = k) : (storePoles m x plan F).pole j = x k := by
  induction plan generalizing F with
  | nil => cases mem
  | cons i rest ih =>
    obtain ⟨-, others⟩ := List.forall_mem_cons.1 only
    by_cases later : k ∈ rest
    · exact ih later others
    · obtain rfl : k = i := (List.mem_cons.1 mem).resolve_right later
      have none : ∀ i ∈ rest, ¬ Writes m i j := fun i h w => later (others i h w ▸ h)
      exact (pole_storePoles_other none).trans ((pole_storePole F m k j _).trans (if_pos writes))

/-- The pole that a register is read from: an unflagged pole's endpoint 1 is a copy of its endpoint 0
(`40_config_load.md` R145). -/
def poleSource (m : Byte) (j : PoleAt) : PoleAt := ⟨j.last && maskBit m j.feedback j.p, j.feedback, j.p⟩

/-- The registers that the poles of a header fill. -/
theorem pole_storePoles (live : j.p.val < (countOf c0 c1 j.feedback).toNat) :
    (storePoles m x (polePlan c0 c1 m) F).pole j = x (poleSource m j) := by
  obtain ⟨last, feedback, p⟩ := j
  refine pole_storePoles_of_writes (mem_polePlan.2 ⟨live, fun h => (Bool.and_eq_true_iff.1 h).2⟩) ⟨rfl, rfl, ?_⟩ ?_
  · cases last <;> cases flag : maskBit m feedback p <;> simp [poleSource, flag]
  · rintro ⟨last', feedback', p'⟩ mem ⟨rfl, rfl, endpoint⟩
    have flagged := (mem_polePlan.1 mem).2
    cases last <;> cases last' <;> cases flag : maskBit m feedback p <;> simp_all [poleSource]

/-- The registers beyond the counts are left alone. -/
theorem pole_storePoles_beyond (beyond : ¬ j.p.val < (countOf c0 c1 j.feedback).toNat) :
    (storePoles m x (polePlan c0 c1 m) F).pole j = F.pole j :=
  pole_storePoles_other fun _ mem ⟨feedback, p, _⟩ => beyond (feedback ▸ p ▸ (mem_polePlan.1 mem).1)

/-! ### The record -/

/-- The record that the fields of a header, its poles and the segments of a cutoff envelope make. -/
def recordFilter (c0 c1 : BitVec 4) (g h : BitVec 16) (m : Byte) (x : PoleAt → Pole) (E : List Segment) : Filter :=
  { storePoles m x (polePlan c0 c1 m) (headerFilter c0 c1 g h m) with
    cutoff := if m != 0 || g != h then ⟨.off, 0, 0, E⟩ else Envelope.blank }

variable {g h : BitVec 16} {E : List Segment}

@[simp] theorem header_recordFilter : (recordFilter c0 c1 g h m x E).header =
    (c0, c1, g, h, (m != 0 || g != h), if m != 0 || g != h then ⟨.off, 0, 0, E⟩ else Envelope.blank) := by
  have stored := header_storePoles (m := m) (x := x) (plan := polePlan c0 c1 m) (F := headerFilter c0 c1 g h m)
  exact congrArg (fun F => (F.1, F.2.1, F.2.2.1, F.2.2.2.1, F.2.2.2.2.1, _)) stored

theorem pole_blank (k : PoleAt) : Filter.blank.pole k = Pole.blank := by
  obtain ⟨last, feedback, p⟩ := k
  revert last feedback p
  decide

/-- Its pole registers: those of the plan, and blank ones beyond the counts (log 6). -/
theorem pole_recordFilter : (recordFilter c0 c1 g h m x E).pole j =
    if j.p.val < (countOf c0 c1 j.feedback).toNat then x (poleSource m j) else Pole.blank := by
  have blank : (headerFilter c0 c1 g h m).pole j = Pole.blank := by
    rw [← pole_blank j]
    obtain ⟨last, feedback, p⟩ := j
    cases feedback <;> rfl
  split
  next live => exact pole_storePoles live
  next beyond => exact (pole_storePoles_beyond beyond).trans blank

/-! ### Reads -/

/-- The bytes of poles. -/
def poleBytes (x : PoleAt → Pole) (l : List PoleAt) : List Byte :=
  l.flatMap fun k => encode (.imgPole (x k).phase (x k).magnitude)

theorem poleBytes_cons (x : PoleAt → Pole) (k : PoleAt) (l : List PoleAt) :
    poleBytes x (k :: l) = encode (.imgPole (x k).phase (x k).magnitude) ++ poleBytes x l := rfl

variable {s t u : State} {ys : List Byte} {phase : Option (BitVec 16)}

theorem readPole_of_holds {p : Pole} (h : s.holds (encode (.imgPole p.phase p.magnitude) ++ ys)) :
    readPole s = .ok (p, s.advance 4) := by
  rw [encode, List.append_assoc] at h
  obtain ⟨first, behind⟩ := imgU_16 h
  rw [readPole, op_bind_ok _ _ first, op_bind_ok _ _ (imgU_16 behind).1]
  simp

theorem readPoles_of_holds (h : s.holds (poleBytes x plan ++ ys)) :
    readPoles m plan F s = .ok (storePoles m x plan F, s.advance (poleBytes x plan).length) := by
  induction plan generalizing s F with
  | nil => exact congrArg (fun t => Except.ok (F, t)) State.advance_zero.symm
  | cons k rest ih =>
    rw [poleBytes_cons, List.append_assoc] at h
    rw [poleBytes_cons, List.length_append, ← State.advance_advance, readPoles, op_bind_ok _ _ (readPole_of_holds h)]
    exact ih (s := s.advance 4) (holds_append h).2

/-- Behind a cut the poles are 0. -/
theorem readPoles_truncate :
    readPoles m plan F s.truncate = .ok (storePoles m (fun _ => ⟨0, 0⟩) plan F, s.truncate) := by
  induction plan generalizing F with
  | nil => rfl
  | cons k rest ih =>
    have pole : readPole s.truncate = .ok (⟨0, 0⟩, s.truncate) := readPole_cut (cutPair_of_few (by simp))
    rw [readPoles, op_bind_ok _ _ pole, ih]
    rfl

/-- Poles that end behind some whole ones and maybe a phase. -/
theorem readPoles_cut_behind {done rest : List PoleAt}
    (h : s.cutBehind (poleBytes x done ++ phase.elim [] bytes16) 2) :
    readPoles m (done ++ k :: rest) F s = .ok (storePoles m (fun _ => ⟨0, 0⟩) rest
      (storePole m k ⟨phase.getD 0, 0⟩ (storePoles m x done F)), s.truncate) := by
  induction done generalizing s F with
  | nil =>
    rw [List.nil_append, readPoles, op_bind_ok _ _ (readPole_cut (cutPair_of_left h)), readPoles_truncate]
    rfl
  | cons i done ih =>
    rw [poleBytes_cons, List.append_assoc] at h
    rw [List.cons_append, readPoles, op_bind_ok _ _ (readPole_of_holds h.1),
      ih (s := s.advance 4) (cutBehind_append h).2]
    rfl

/-- What the poles of a plan are read as when the image ends behind the first `n` and maybe the phase of the next. -/
def cutPoles (x : PoleAt → Pole) (plan : List PoleAt) (n : Nat) (phase : Option (BitVec 16)) (k : PoleAt) : Pole :=
  if k ∈ plan.take n then x k else if plan[n]? = some k then ⟨phase.getD 0, 0⟩ else ⟨0, 0⟩

theorem storePoles_cutPoles {n : Nat} (more : n < plan.length) (nodup : plan.Nodup) :
    storePoles m (cutPoles x plan n phase) plan F = storePoles m (fun _ => ⟨0, 0⟩) (plan.drop (n + 1))
      (storePole m plan[n] ⟨phase.getD 0, 0⟩ (storePoles m x (plan.take n) F)) := by
  have parts : plan.take n ++ plan[n] :: plan.drop (n + 1) = plan := by
    rw [← List.drop_eq_getElem_cons more, List.take_append_drop]
  have next : plan[n]? = some plan[n] := List.getElem?_eq_getElem more
  have apart := nodup
  rw [← parts, List.nodup_append, List.nodup_cons] at apart
  obtain ⟨-, ⟨once, -⟩, apart⟩ := apart
  have whole : ∀ k ∈ plan.take n, cutPoles x plan n phase k = x k := fun k mem => if_pos mem
  have cut : cutPoles x plan n phase plan[n] = ⟨phase.getD 0, 0⟩ := by
    rw [cutPoles, if_neg fun mem => apart _ mem _ List.mem_cons_self rfl, if_pos next]
  have gone : ∀ k ∈ plan.drop (n + 1), cutPoles x plan n phase k = ⟨0, 0⟩ := fun k mem => by
    have other : plan[n]? ≠ some k := fun same => once (Option.some.inj (next.symm.trans same) ▸ mem)
    rw [cutPoles, if_neg fun first => apart _ first _ (List.mem_cons_of_mem _ mem) rfl, if_neg other]
  rw [← storePoles_congr whole, ← cut, ← storePoles_congr gone, storePoles, storePoles, storePoles,
    ← List.foldl_cons, ← List.foldl_append, parts]

theorem readPoles_cut {n : Nat} (more : n < plan.length) (nodup : plan.Nodup)
    (h : s.cutBehind (poleBytes x (plan.take n) ++ phase.elim [] bytes16) 2) :
    readPoles m plan F s = .ok (storePoles m (cutPoles x plan n phase) plan F, s.truncate) := by
  have cut := readPoles_cut_behind (m := m) (F := F) (k := plan[n]) (rest := plan.drop (n + 1)) h
  rwa [← List.drop_eq_getElem_cons more, List.take_append_drop, ← storePoles_cutPoles more nodup] at cut

/-- A header that stands whole at the cursor, with legal counts. -/
theorem readFilterHeader_of_holds (legal : c0.toNat ≤ 4 ∧ c1.toNat ≤ 4)
    (bytes : s.holds (encode (.imgFilterHeader c0 c1 g h m) ++ ys)) :
    readFilterHeader s = .ok ((headerFilter c0 c1 g h m, m), s.advance 6) := by
  rw [encode, List.cons_append, List.append_assoc, List.append_assoc] at bytes
  obtain ⟨high, low⟩ := packedCounts_fields c0 c1
  obtain ⟨first, bytes⟩ := imgU_byte bytes
  obtain ⟨gain0, bytes⟩ := imgU_16 bytes
  obtain ⟨gain1, bytes⟩ := imgU_16 bytes
  obtain ⟨mask, -⟩ := imgU_byte bytes
  rw [readFilterHeader, op_bind_ok _ _ first]
  dsimp only
  rw [high, low, if_pos (countsLegal_iff.2 legal), op_bind_ok _ _ gain0, op_bind_ok _ _ gain1, op_bind_ok _ _ mask]
  simp

/-- A header of which nothing is left. -/
theorem readFilterHeader_of_empty (empty : s.remaining = 0) :
    readFilterHeader s = .ok ((headerFilter 0 0 0 0 0, 0), s.truncate) := by
  have counts : imgU 1 s = .ok (0, s.truncate) := imgU_truncated s 1 (by omega)
  rw [readFilterHeader, op_bind_ok _ _ counts]
  dsimp only
  rw [if_pos (by decide), op_bind_ok _ _ (imgU_truncate Nat.two_pos), op_bind_ok _ _ (imgU_truncate Nat.two_pos),
    op_bind_ok _ _ (imgU_truncate Nat.one_pos)]
  rfl

/-! ### The operation -/

/-- The filter record stored in a slot. -/
abbrev State.putFilter (s : State) (v : Fin 10) (F : Filter) : State :=
  s.mapVoice v fun V => { V with filterPresent := true, filter := F }

/-- A record from the reads of its parts; without a cutoff envelope none is read. -/
theorem cfgFilterbody_of_reads {v : Fin 10} {w : State}
    (header : readFilterHeader s = .ok ((headerFilter c0 c1 g h m, m), t))
    (poles : readPoles m (polePlan c0 c1 m) (headerFilter c0 c1 g h m) t =
      .ok (storePoles m x (polePlan c0 c1 m) (headerFilter c0 c1 g h m), u))
    (cutoff : if m != 0 || g != h then readCutoff u = .ok (⟨.off, 0, 0, E⟩, w) else w = u) :
    cfgFilterbody v s = .ok ((), w.putFilter v (recordFilter c0 c1 g h m x E)) := by
  have present : (storePoles m x (polePlan c0 c1 m) (headerFilter c0 c1 g h m)).cutoffPresent = (m != 0 || g != h) :=
    congrArg (fun F => F.2.2.2.2.1) header_storePoles
  have blank : (storePoles m x (polePlan c0 c1 m) (headerFilter c0 c1 g h m)).cutoff = Envelope.blank :=
    congrArg (fun F => F.2.2.2.2.2) header_storePoles
  rw [cfgFilterbody, op_bind_ok _ _ header]
  change (readPoles m (polePlan c0 c1 m) (headerFilter c0 c1 g h m) >>= _) t = _
  rw [op_bind_ok _ _ poles, recordFilter]
  generalize storePoles m x (polePlan c0 c1 m) (headerFilter c0 c1 g h m) = F at present blank
  dsimp only
  cases asked : m != 0 || g != h with
  | true =>
    rw [asked] at present
    rw [asked, if_pos rfl] at cutoff
    rw [if_pos present, op_bind_ok _ _ cutoff]
    rfl
  | false =>
    rw [asked] at present
    rw [asked, if_neg Bool.false_ne_true] at cutoff
    rw [if_neg (Bool.eq_false_iff.1 present), if_neg Bool.false_ne_true, ← blank, cutoff]
    rfl

theorem readCutoff_of_bytes {segs : List (BitVec 16 × BitVec 16)} (short : segs.length ≤ 255)
    (bytes : s.holds (BitVec.ofNat 8 segs.length :: segmentBytes segs)) : readCutoff s =
      .ok (⟨.off, 0, 0, segmentsOf segs⟩, s.advance (BitVec.ofNat 8 segs.length :: segmentBytes segs).length) := by
  have length : (segmentBytes segs).length = 4 * segs.length := by
    simp [segmentBytes, encode, bytes16, Nat.mul_comm]
  rw [List.length_cons, length, Nat.add_comm]
  exact (readCutoff_of_holds short (holds_nil_append bytes)).1

/-- A record whose poles are the last that is left of it has a cutoff envelope without segments, if one is asked for. -/
theorem cfgFilterbody_of_cut_poles {v : Fin 10}
    (header : readFilterHeader s = .ok ((headerFilter c0 c1 g h m, m), t))
    (poles : readPoles m (polePlan c0 c1 m) (headerFilter c0 c1 g h m) t =
      .ok (storePoles m x (polePlan c0 c1 m) (headerFilter c0 c1 g h m), s.truncate)) :
    cfgFilterbody v s = .ok ((), s.truncate.putFilter v (recordFilter c0 c1 g h m x [])) := by
  refine cfgFilterbody_of_reads header poles ?_
  split
  next => exact readCutoff_of_empty State.remaining_truncate
  next => rfl

/-- A record with its poles whole: what is read as its cutoff envelope completes it. -/
theorem cfgFilterbody_of_whole_poles {v : Fin 10} (legal : c0.toNat ≤ 4 ∧ c1.toNat ≤ 4)
    (bytes : s.holds (encode (.imgFilterHeader c0 c1 g h m) ++ poleBytes x (polePlan c0 c1 m)))
    (behind : u = s.advance (encode (.imgFilterHeader c0 c1 g h m) ++ poleBytes x (polePlan c0 c1 m)).length)
    (cutoff : if m != 0 || g != h then readCutoff u = .ok (⟨.off, 0, 0, E⟩, t) else t = u) :
    cfgFilterbody v s = .ok ((), t.putFilter v (recordFilter c0 c1 g h m x E)) := by
  have poles := readPoles_of_holds (s := s.advance 6) (m := m) (F := headerFilter c0 c1 g h m)
    (holds_nil_append (holds_append bytes).2)
  have sum : (s.advance 6).advance (poleBytes x (polePlan c0 c1 m)).length = u := by
    rw [behind, List.length_append, ← State.advance_advance]
    rfl
  rw [sum] at poles
  exact cfgFilterbody_of_reads (readFilterHeader_of_holds legal bytes) poles cutoff

/-- The bytes of a cutoff envelope, if the mask or the gains ask for one. -/
def cutoffBytes (g h : BitVec 16) (m : Byte) (segs : List (BitVec 16 × BitVec 16)) : List Byte :=
  if m ≠ 0 ∨ g ≠ h then BitVec.ofNat 8 segs.length :: segmentBytes segs else []

/-- A whole record. -/
theorem cfgFilterbody_of_bytes {v : Fin 10} {segs : List (BitVec 16 × BitVec 16)} {bs : List Byte}
    (legal : c0.toNat ≤ 4 ∧ c1.toNat ≤ 4) (short : segs.length ≤ 255)
    (record : encode (.imgFilterHeader c0 c1 g h m) ++ poleBytes x (polePlan c0 c1 m) ++ cutoffBytes g h m segs = bs)
    (bytes : s.holds bs) : cfgFilterbody v s =
      .ok ((), (s.advance bs.length).putFilter v (recordFilter c0 c1 g h m x (segmentsOf segs))) := by
  subst record
  obtain ⟨whole, behind⟩ := holds_append bytes
  refine cfgFilterbody_of_whole_poles legal whole rfl ?_
  rw [List.length_append (bs := cutoffBytes g h m segs), ← State.advance_advance]
  by_cases asked : m ≠ 0 ∨ g ≠ h
  · rw [cutoffBytes, if_pos asked] at behind ⊢
    rw [if_pos (by simpa using asked)]
    exact readCutoff_of_bytes short behind
  · rw [cutoffBytes, if_neg asked, if_neg (by simpa using asked)]
    exact State.advance_zero

/-! ### The statement -/

/-- What `CFG.FILTERBODY` reads: the fields, and the poles with the copies of the unflagged ones. -/
def FilterRead (s : State) (c0 c1 : BitVec 4) (g h : BitVec 16) (m : Byte) (x : PoleAt → Pole) (E : List Segment)
    (t : State) : Prop :=
  ∃ F : Filter, exec .cfgFilterbody s = .next (t.putFilter s.ldr.slot F) ∧
    F.ff.count = c0 ∧ F.fb.count = c1 ∧ F.gain0 = g ∧ F.gain1 = h ∧
    (F.cutoffPresent = true ↔ m ≠ 0 ∨ g ≠ h) ∧ (F.cutoffPresent = true → F.cutoff = ⟨.off, 0, 0, E⟩) ∧
    ∀ p : Fin 4,
      (p.val < c0.toNat → vget F.ff.first p = x ⟨false, false, p⟩ ∧
        vget F.ff.last p = if m.getLsbD p.val then x ⟨true, false, p⟩ else x ⟨false, false, p⟩) ∧
      (p.val < c1.toNat → vget F.fb.first p = x ⟨false, true, p⟩ ∧
        vget F.fb.last p = if m.getLsbD (4 + p.val) then x ⟨true, true, p⟩ else x ⟨false, true, p⟩)

/-- At endpoint 1 a flagged pole is its own, an unflagged one a copy. -/
theorem poleSource_last (m : Byte) (feedback : Bool) (p : Fin 4) : x (poleSource m ⟨true, feedback, p⟩) =
    if maskBit m feedback p then x ⟨true, feedback, p⟩ else x ⟨false, feedback, p⟩ := by
  cases flag : maskBit m feedback p <;> simp [poleSource, flag]

theorem filterRead_of_record
    (read : cfgFilterbody s.ldr.slot s = .ok ((), t.putFilter s.ldr.slot (recordFilter c0 c1 g h m x E))) :
    FilterRead s c0 c1 g h m x E t := by
  have header := header_recordFilter (c0 := c0) (c1 := c1) (g := g) (h := h) (m := m) (x := x) (E := E)
  have asked : (m != 0 || g != h) = true ↔ m ≠ 0 ∨ g ≠ h := by simp
  have pole (j : PoleAt) (live : j.p.val < (countOf c0 c1 j.feedback).toNat) :
      (recordFilter c0 c1 g h m x E).pole j = x (poleSource m j) := pole_recordFilter.trans (if_pos live)
  generalize recordFilter c0 c1 g h m x E = F at read header pole
  simp only [Filter.header, Prod.mk.injEq] at header
  obtain ⟨ff, fb, gain0, gain1, present, cutoff⟩ := header
  rw [← present] at asked cutoff
  refine ⟨F, congrArg finish read, ff, fb, gain0, gain1, asked, fun present => cutoff.trans (if_pos present),
    fun p => ⟨fun live => ⟨?_, ?_⟩, fun live => ⟨?_, ?_⟩⟩⟩
  · exact pole ⟨false, false, p⟩ live
  · have flag : m.getLsbD p.val = maskBit m false p := by rw [maskBit]; simp
    rw [flag, ← poleSource_last]
    exact pole ⟨true, false, p⟩ live
  · exact pole ⟨false, true, p⟩ live
  · exact (pole ⟨true, true, p⟩ live).trans (poleSource_last m true p)

/-- The order of a plan, written out per channel. -/
theorem polePlan_order : polePlan c0 c1 m =
    (([0, 1, 2, 3] : List (Fin 4)).filter fun p => decide (p.val < c0.toNat)).map (fun p => ⟨false, false, p⟩)
      ++ (([0, 1, 2, 3] : List (Fin 4)).filter fun p => decide (p.val < c1.toNat)).map (fun p => ⟨false, true, p⟩)
      ++ ((([0, 1, 2, 3] : List (Fin 4)).filter fun p => decide (p.val < c0.toNat)).filter
          fun p => m.getLsbD p.val).map (fun p => ⟨true, false, p⟩)
      ++ ((([0, 1, 2, 3] : List (Fin 4)).filter fun p => decide (p.val < c1.toNat)).filter
          fun p => m.getLsbD (4 + p.val)).map (fun p => ⟨true, true, p⟩) := by
  simp only [← polesBelow_eq, polePlan, List.map_append, List.filter_append, List.map_map, List.filter_map,
    Function.comp_def, maskBit, List.append_assoc, if_true, Bool.false_eq_true, if_false, Nat.zero_add]

end

/-- Settles O39: the header, the poles and the cutoff envelope in turn, each whole or cut. -/
theorem filterRecord : Obligations.FilterRecord := by
  intro s c0 c1 g h m x segs
  dsimp only
  rw [← polePlan_order]
  intro legal0 legal1 short
  have legal : c0.toNat ≤ 4 ∧ c1.toNat ≤ 4 := ⟨legal0, legal1⟩
  have lawful := countsLegal_iff.2 legal
  refine ⟨fun whole => ?_, fun empty => ?_, fun counts few => ?_, fun bytes few => ?_, fun bytes few => ?_,
    fun j phase more bytes few => ?_, fun asked => ⟨fun bytes all => ?_, fun n dur more bytes few => ?_⟩⟩
  · exact filterRead_of_record (cfgFilterbody_of_bytes legal short rfl whole)
  · exact filterRead_of_record (cfgFilterbody_of_cut_poles (readFilterHeader_of_empty empty)
      readPoles_truncate)
  · exact filterRead_of_record (cfgFilterbody_of_cut_poles (readFilterHeader_cut (g := 0) (h := 0) lawful counts
      (imgU_cut counts few) (imgU_truncate Nat.two_pos) (imgU_truncate Nat.one_pos)) readPoles_truncate)
  · have counts := (holds_append (xs := [c0 ++ c1]) bytes).1
    obtain ⟨gain0, -⟩ := imgU_16 (holds_nil_append (imgU_byte bytes).2)
    rw [State.advance_advance] at gain0
    exact filterRead_of_record (cfgFilterbody_of_cut_poles (readFilterHeader_cut (h := 0) lawful counts gain0
      (imgU_cut bytes few) (imgU_truncate Nat.one_pos)) readPoles_truncate)
  · have counts := (holds_append (xs := [c0 ++ c1]) bytes).1
    obtain ⟨gain0, behind⟩ := imgU_16 (imgU_byte bytes).2
    obtain ⟨gain1, -⟩ := imgU_16 (holds_nil_append behind)
    simp only [State.advance_advance] at gain0 gain1
    exact filterRead_of_record (cfgFilterbody_of_cut_poles (readFilterHeader_cut lawful counts gain0 gain1
      (imgU_cut bytes few)) readPoles_truncate)
  · rw [List.append_assoc] at bytes few
    exact filterRead_of_record (cfgFilterbody_of_cut_poles (readFilterHeader_of_holds legal bytes)
      (readPoles_cut (s := s.advance 6) more nodup_polePlan (cutBehind_append ⟨bytes, few⟩).2))
  · refine filterRead_of_record (cfgFilterbody_of_whole_poles legal bytes rfl ?_)
    rw [if_pos (by simpa using asked)]
    exact readCutoff_of_empty ((remaining_advance bytes).trans (by rw [all, Nat.sub_self]))
  · rw [List.append_assoc] at bytes few
    refine filterRead_of_record (cfgFilterbody_of_whole_poles legal (holds_append bytes).1 rfl ?_)
    rw [if_pos (by simpa using asked)]
    exact readCutoff_cut_behind more (cutBehind_append ⟨bytes, few⟩).2

end Sys2Proof.Machine
end

section
/-! The filter of a voice: absent, taken for an envelope, read, or discarded (`40_config_load.md` R138, R145, R146;
`60_exceptions.md` R345, R351). -/

namespace Sys2Proof.Machine

/-! ### How a filter record ends -/

/-- The cutoff envelope read, if one is asked for. -/
def readAskedCutoff (F : Filter) : Op Filter :=
  if F.cutoffPresent then do
    let E ← readCutoff
    pure { F with cutoff := E }
  else pure F

/-- A filter record behind its first byte. -/
def readRecord (c0 c1 : BitVec 4) : Op Filter := do
  let h ← readGains c0 c1
  let F ← readPoles h.2 (planOf h) h.1
  readAskedCutoff F

/-- `CFG.FILTERBODY` is the first byte, and where its counts are legal the rest of the record, which is stored. -/
theorem cfgFilterbody_eq (v : Fin 10) : cfgFilterbody v = (do
    let b ← imgU 1
    if countsLegal (BitVec.ofNat 4 (b / 16)) (BitVec.ofNat 4 b) then do
      let F ← readRecord (BitVec.ofNat 4 (b / 16)) (BitVec.ofNat 4 b)
      modify fun s => s.putFilter v F
    else raiseFatal .reserved) := by
  rw [cfgFilterbody, readFilterHeader_eq, bind_assoc]
  congr 1
  funext b
  split
  next =>
    simp only [readRecord, bind_assoc]
    congr 1
    funext h
    congr 1
    funext F
    rw [readAskedCutoff]
    split
    next => rw [bind_assoc]
    next => rfl
  next => rfl

theorem reader_readRecord (c0 c1 : BitVec 4) : Reader (readRecord c0 c1) :=
  (reader_readGains c0 c1).bind fun _ => (reader_readPoles _ _ _).bind fun _ =>
    .ite (reader_readCutoff.bind fun _ => .pure) .pure

section
variable {s t : State} {c0 c1 : BitVec 4} {F G : Filter} {v : Fin 10} {b : Byte} {ys : List Byte}

/-- A cutoff envelope begins and ends at 0 (`40_config_load.md` R147). -/
theorem legal_of_readCutoff {E : Envelope} (h : readCutoff s = .ok (E, t)) : E.legal = true := by
  obtain ⟨n, u, -, h⟩ := op_bind_eq_ok h
  obtain ⟨segs, w, -, h⟩ := op_bind_eq_ok h
  cases h
  exact Bool.or_true _

/-- The poles leave the header alone. -/
theorem header_of_readPoles {m : Byte} {plan : List PoleAt} (h : readPoles m plan F s = .ok (G, t)) :
    G.header = F.header := by
  induction plan generalizing F s with
  | nil =>
    cases h
    rfl
  | cons k rest ih =>
    obtain ⟨x, u, -, h⟩ := op_bind_eq_ok h
    exact (ih h).trans (header_storePole F m k x)

theorem header_of_readGains {r : Filter × Byte} (h : readGains c0 c1 s = .ok (r, t)) :
    ∃ g0 g1, r = (headerFilter c0 c1 g0 g1 r.2, r.2) := by
  obtain ⟨g0, u, -, h⟩ := op_bind_eq_ok h
  obtain ⟨g1, w, -, h⟩ := op_bind_eq_ok h
  obtain ⟨m, z, -, h⟩ := op_bind_eq_ok h
  cases h
  exact ⟨_, _, rfl⟩

/-- A record that is read with legal counts is legal (`40_config_load.md` R154). -/
theorem legal_of_readRecord (legal : countsLegal c0 c1 = true) (h : readRecord c0 c1 s = .ok (F, t)) :
    F.legal = true := by
  obtain ⟨r, u, gains, h⟩ := op_bind_eq_ok h
  obtain ⟨G, w, poles, h⟩ := op_bind_eq_ok h
  obtain ⟨g0, g1, same⟩ := header_of_readGains gains
  have header := header_of_readPoles poles
  rw [same] at header
  have counts : countsLegal G.ff.count G.fb.count = true := by
    rw [show G.ff.count = c0 from congrArg Prod.fst header, show G.fb.count = c1 from congrArg (·.2.1) header, legal]
  rw [readAskedCutoff] at h
  split at h
  next =>
    obtain ⟨E, z, cutoff, h⟩ := op_bind_eq_ok h
    cases h
    have ends := legal_of_readCutoff cutoff
    exact Bool.and_eq_true_iff.2 ⟨counts, by rw [ends, Bool.or_true]⟩
  next absent =>
    cases h
    exact Bool.and_eq_true_iff.2 ⟨counts, by rw [Bool.eq_false_iff.2 absent]; rfl⟩

/-- A byte that names a reserved count (`30_encoding.md` R106, R110 (d)). -/
abbrev reservedCounts (b : Byte) : Prop := 4 < b.toNat / 16 ∨ 4 < b.toNat % 16

theorem countsLegal_byte : countsLegal (BitVec.ofNat 4 (b.toNat / 16)) (BitVec.ofNat 4 b.toNat) = true ↔
    ¬ reservedCounts b := by
  rw [countsLegal_iff, BitVec.toNat_ofNat, BitVec.toNat_ofNat]
  omega

/-- How `CFG.FILTERBODY` ends: with a legal record stored, at an unwritten byte, or with `E_RESERVED` on its first
byte. -/
theorem cfgFilterbody_cases (v : Fin 10) (s : State) :
    (∃ F pos trunc, F.legal = true ∧ cfgFilterbody v s = .ok ((), (s.moved pos trunc).putFilter v F)) ∨
      (∃ a, s.unwrittenAt a ∧ cfgFilterbody v s = .error (.fault (.imgNoValue a))) ∨
      ∃ b, s.img.read s.cfg.pos.toNat = some b ∧ reservedCounts b ∧
        cfgFilterbody v s = .error (.fatal ((s.advance 1).fatalEntry .reserved)) := by
  -- the rest of a record with legal counts, from wherever its first byte leaves the cursor
  have rest {n : Nat} {pos : Word} {trunc : Bool} (first : imgU 1 s = .ok (n, s.moved pos trunc))
      (legal : countsLegal (BitVec.ofNat 4 (n / 16)) (BitVec.ofNat 4 n) = true) :
      (∃ F pos trunc, F.legal = true ∧ cfgFilterbody v s = .ok ((), (s.moved pos trunc).putFilter v F)) ∨
        ∃ a, s.unwrittenAt a ∧ cfgFilterbody v s = .error (.fault (.imgNoValue a)) := by
    rw [cfgFilterbody_eq, op_bind_ok _ _ first, if_pos legal]
    rcases (reader_readRecord (BitVec.ofNat 4 (n / 16)) (BitVec.ofNat 4 n)).cases (s.moved pos trunc) with
      ⟨F, pos', trunc', record⟩ | ⟨a, unwritten, fault⟩
    · exact .inl ⟨F, pos', trunc', legal_of_readRecord legal record, op_bind_ok _ _ record⟩
    · exact .inr ⟨a, unwritten, op_bind_error _ _ fault⟩
  by_cases empty : s.remaining = 0
  · have first : imgU 1 s = .ok (0, s.moved s.cfg.len true) := imgU_truncated s 1 (by omega)
    exact (rest first (by decide)).imp_right .inl
  · have room : s.cfg.pos.toNat < s.cfg.len.toNat := by
      unfold State.remaining at empty
      omega
    cases byte : s.img.read s.cfg.pos.toNat with
    | none =>
      have fault := imgU_of_unwritten s 1 [] (by omega) Nat.one_pos nofun byte
      exact .inr (.inl ⟨_, ⟨room, byte⟩, by rw [cfgFilterbody_eq, op_bind_error _ _ fault]; rfl⟩)
    | some b =>
      have holds : s.holds [b] := ⟨room, fun k hk => by
        rw [List.length_singleton, Nat.lt_one_iff] at hk
        rw [hk]
        exact byte⟩
      by_cases reserved : reservedCounts b
      · have raised := readFilterHeader_reserved holds reserved
        exact .inr (.inr ⟨b, rfl, reserved, by rw [cfgFilterbody, op_bind_error _ _ raised]⟩)
      · exact (rest (pos := s.cfg.pos + 1) (trunc := s.cfg.trunc) (imgU_byte holds).1
          (countsLegal_byte.2 reserved)).imp_right .inl

/-! ### The filter of a voice, case by case -/

/-- The end of `CFG.FILTER` behind a record: a truncation discards it (`40_config_load.md` R146). -/
def State.keepFilter (s : State) (v : Fin 10) : State :=
  if s.cfg.trunc then (s.dropFilter v).raiseWarn .filterDiscard else s

theorem cfgFilter_of_empty (h : s.remaining = 0) : cfgFilter v s = .ok ((), s.dropFilter v) := by
  rw [cfgFilter, op_bind_ok _ _ (imgPeek_of_empty h)]
  rfl

theorem cfgFilter_of_zero (h : s.holds (0 :: ys)) : cfgFilter v s = .ok ((), (s.advance 1).dropFilter v) := by
  rw [cfgFilter, op_bind_ok _ _ (imgPeek_of_holds h)]
  dsimp only
  rw [if_pos rfl, op_bind_ok _ _ (imgU_byte h).1]
  rfl

theorem cfgFilter_of_envelope (h : s.holds (b :: ys)) (present : b ≠ 0) (env : looksEnv s = .ok (true, s)) :
    cfgFilter v s = .ok ((), s.dropFilter v) := by
  rw [cfgFilter, op_bind_ok _ _ (imgPeek_of_holds h)]
  dsimp only
  rw [if_neg present, op_bind_ok _ _ env]
  rfl

theorem cfgFilter_of_record (h : s.holds (b :: ys)) (present : b ≠ 0) (env : looksEnv s = .ok (false, s)) :
    cfgFilter v s = (do cfgFilterbody v; modify fun s => s.keepFilter v : Op Unit) s := by
  rw [cfgFilter, op_bind_ok _ _ (imgPeek_of_holds h)]
  dsimp only
  rw [if_neg present, op_bind_ok _ _ env]
  rfl

/-- A first byte above 4 is no envelope's. -/
theorem looksEnv_of_above (h : s.holds (b :: ys)) (above : 4 < b.toNat) : looksEnv s = .ok (false, s) :=
  looksEnv_of_outside (imgPeek_of_holds h) fun inside => absurd inside.2.1 (Nat.not_le.2 above)

end

/-- A discarded filter is counted as a warning (`60_exceptions.md` R345). -/
theorem State.keepFilter_eq (t : State) (v : Fin 10) : t.keepFilter v = if t.cfg.trunc then
    ((t.dropFilter v).setWarn (BitVec.ofNat 16 (min (t.warnCount.toNat + 1) 65535)) (t.warnMask ||| 2)).setStatus
      { t.status with warn := true } else t := by
  have count : warnCountUp t.warnCount = BitVec.ofNat 16 (min (t.warnCount.toNat + 1) 65535) := by
    refine BitVec.eq_of_toNat_eq ?_
    rw [warnCountUp_toNat, BitVec.toNat_ofNat]
    omega
  rw [← count]
  rfl

/-- Settles O41: by the byte at the cursor, the answer of the heuristic, and the end of the record. -/
theorem filterOrNot : Obligations.FilterOrNot := by
  intro s b
  refine ⟨fun empty => congrArg finish (cfgFilter_of_empty empty), fun h => congrArg finish (cfgFilter_of_zero h),
    fun h present env => congrArg finish (cfgFilter_of_envelope h present (looksEnv_of_exec env)),
    fun h present env high low => ?_, fun h reserved => ?_⟩
  · have filter : exec .cfgFilter s = _ := congrArg finish (cfgFilter_of_record h present (looksEnv_of_exec env))
    rw [filter]
    show _ = andThen (finish (cfgFilterbody s.ldr.slot s)) _
    rcases cfgFilterbody_cases s.ldr.slot s with ⟨F, pos, trunc, -, stored⟩ | ⟨a, -, fault⟩ | ⟨b', byte, reserved, -⟩
    · rw [op_bind_ok _ _ stored, stored, op_modify, State.keepFilter_eq]
      rfl
    · rw [op_bind_error _ _ fault, fault]
      rfl
    · cases (h.2 0 Nat.one_pos).symm.trans byte
      exact absurd reserved (by omega)
  · have above : 4 < b.toNat := by omega
    have present : b ≠ 0 := by
      rintro rfl
      exact absurd above (by decide)
    refine congrArg finish ((cfgFilter_of_record h present (looksEnv_of_above h above)).trans ?_)
    have raised := readFilterHeader_reserved h reserved
    have body : cfgFilterbody s.ldr.slot s = .error (.fatal ((s.advance 1).fatalEntry .reserved)) := by
      rw [cfgFilterbody, op_bind_error _ _ raised]
    rw [op_bind_error _ _ body, body]

end Sys2Proof.Machine
end

section
/-! What the writer writes, as bytes that the reader takes for the same record (`40_config_load.md` R150, R151;
`30_encoding.md` R93 to R104). -/

namespace Sys2Proof.Machine

/-! ### Envelopes -/

/-- The fields of segments as the writer writes them. -/
def segmentPairs (segs : List Segment) : List (BitVec 16 × BitVec 16) := segs.map fun g => (g.dur, g.peak.setWidth 16)

@[simp] theorem length_segmentPairs (segs : List Segment) : (segmentPairs segs).length = segs.length :=
  List.length_map _

theorem segmentBytes_segmentPairs (segs : List Segment) : segmentBytes (segmentPairs segs) = segs.flatMap writeSegment :=
  List.flatMap_map ..

/-- Peaks of 16 bits are written whole (log 29). -/
theorem segmentsOf_segmentPairs {segs : List Segment} (h : ∀ g ∈ segs, g.peak.toNat < 65536) :
    segmentsOf (segmentPairs segs) = segs := by
  have kept : ∀ g ∈ segs, (⟨g.dur, (g.peak.setWidth 16).setWidth 32⟩ : Segment) = g := fun g mem => by
    have peak : (g.peak.setWidth 16).setWidth 32 = g.peak := BitVec.eq_of_toNat_eq (by
      have := h g mem
      rw [BitVec.toNat_setWidth, BitVec.toNat_setWidth]
      omega)
    rw [peak]
  rw [segmentsOf, segmentPairs, List.map_map]
  exact (List.map_congr_left kept).trans (List.map_id' segs)

theorem Envelope.carried_iff {E : Envelope} :
    E.carried = true ↔ E.segs.length ≤ 255 ∧ ∀ g ∈ E.segs, g.peak.toNat < 65536 := by
  simp [Envelope.carried]

theorem writeEnvelope_eq (E : Envelope) :
    writeEnvelope E = envelopeBytes (waveformByte E.waveform) E.start E.stop (segmentPairs E.segs) := by
  rw [writeEnvelope, envelopeBytes, segmentBytes_segmentPairs, length_segmentPairs]

@[simp] theorem waveformOf_waveformByte (w : Waveform) : waveformOf (waveformByte w).toNat = w := by
  cases w <;> rfl

theorem waveformByte_ne_zero {w : Waveform} (h : w ≠ .off) : waveformByte w ≠ 0 := by
  revert h
  cases w <;> decide

/-! ### Records taken from their bytes -/

/-- The operation takes these bytes at the cursor for this value, and moves past them. -/
def Takes {α : Type} (m : Op α) (bs : List Byte) (a : α) : Prop :=
  ∀ s : State, s.holds bs → m s = .ok (a, s.advance bs.length)

/-- The operation takes these bytes at the cursor of an image that is not cut so far for this change of a voice. -/
def Fills (v : Fin 10) (m : Op Unit) (bs : List Byte) (f : Voice → Voice) : Prop :=
  ∀ s : State, s.cfg.trunc = false → s.holds bs → m s = .ok ((), (s.advance bs.length).mapVoice v f)

@[simp] theorem vset_vset {α : Type} {n : Nat} (x : Vector α n) (i : Fin n) (a b : α) :
    vset (vset x i a) i b = vset x i b := Vector.set_set ..

/-- One change of a voice after another. -/
theorem State.mapVoice_mapVoice (s : State) (v : Fin 10) (f g : Voice → Voice) :
    (s.mapVoice v f).mapVoice v g = s.mapVoice v (g ∘ f) := by
  simp [State.mapVoice, State.setSlot, State.setCfg, State.voiceOf]

section
variable {α : Type} {v : Fin 10} {m n : Op Unit} {bs cs : List Byte} {f g : Voice → Voice}

theorem Fills.andThen (first : Fills v m bs f) (second : Fills v n cs g) :
    Fills v (do m; n) (bs ++ cs) (g ∘ f) := by
  intro s whole h
  obtain ⟨h, behind⟩ := holds_append h
  rw [op_bind_ok _ _ (first s whole h), second ((s.advance bs.length).mapVoice v f) whole behind, List.length_append,
    ← State.advance_advance, ← State.mapVoice_mapVoice]
  rfl

/-- A record that is written into the voice. -/
theorem Fills.field {r : Op α} {a : α} {put : α → Voice → Voice} (read : Takes r bs a) (rest : Fills v n cs g) :
    Fills v (do let x ← r; modify fun s => s.mapVoice v (put x); n) (bs ++ cs) (g ∘ put a) := by
  intro s whole h
  obtain ⟨h, behind⟩ := holds_append h
  rw [op_bind_ok _ _ (read s h), op_bind_ok _ _ (op_modify _ _),
    rest ((s.advance bs.length).mapVoice v (put a)) whole behind, List.length_append, ← State.advance_advance,
    ← State.mapVoice_mapVoice]
  rfl

end

theorem takes_readEnvelope {E : Envelope} (h : E.carried = true) : Takes readEnvelope (writeEnvelope E) E := by
  obtain ⟨short, peaks⟩ := Envelope.carried_iff.1 h
  intro s bytes
  have count := (length_segmentPairs E.segs).le.trans short
  rw [writeEnvelope_eq] at bytes ⊢
  have read := (readEnvelope_of_holds count (holds_nil_append bytes)).1
  have length : (envelopeBytes (waveformByte E.waveform) E.start E.stop (segmentPairs E.segs)).length =
      10 + 4 * (segmentPairs E.segs).length := by
    simp [envelopeBytes, encode, bytes32, segmentBytes, bytes16]
    omega
  rw [length, read, envelopeOf, waveformOf_waveformByte, segmentsOf_segmentPairs peaks]

/-- An absent pair is a zero byte; a present one begins with another (`30_encoding.md` R96). -/
theorem takes_readPair {p : EnvPair} (h : p.carried = true) : Takes readPair (writePair p) p := by
  rw [EnvPair.carried] at h
  rw [writePair]
  cases present : p.present with
  | false =>
    rw [present, if_neg Bool.false_ne_true] at h
    rw [if_neg Bool.false_ne_true, eq_of_beq h]
    exact fun _ bytes => readPair_of_zero bytes
  | true =>
    rw [present, if_pos rfl] at h
    rw [if_pos rfl]
    simp only [Bool.and_eq_true, bne_iff_ne] at h
    obtain ⟨⟨first, second⟩, wave⟩ := h
    intro s bytes
    obtain ⟨bytes1, bytes2⟩ := holds_append bytes
    rw [readPair_of_present bytes (waveformByte_ne_zero wave), op_bind_ok _ _ (takes_readEnvelope first s bytes1),
      op_bind_ok _ _ (takes_readEnvelope second _ bytes2), List.length_append, ← State.advance_advance, ← present]
    rfl

/-! ### Smart integers -/

/-- What a form that is found reads back as. -/
theorem unsignedForm_value {u : Int} {x : Smart} (h : unsignedForm u = .ok x) : unsignedSmart x = u := by
  obtain ⟨short, long, -, -, outside, -⟩ := smartIntegers u
  have inside : 0 ≤ u ∧ u ≤ 32767 := by
    by_contra out
    rw [outside (by omega)] at h
    cases h
  rcases Int.lt_or_le 127 u with above | below
  · obtain ⟨y, form, -, value⟩ := long above inside.2
    cases form.symm.trans h
    exact value
  · obtain ⟨y, form, -, value⟩ := short inside.1 below
    cases form.symm.trans h
    exact value

theorem signedForm_value {u : Int} {x : Smart} (h : signedForm u = .ok x) : signedSmart x = u := by
  obtain ⟨-, -, short, long, -, outside, -⟩ := smartIntegers u
  have inside : -16384 ≤ u ∧ u ≤ 16383 := by
    by_contra out
    rw [outside (by omega)] at h
    cases h
  by_cases small : -64 ≤ u ∧ u ≤ 63
  · obtain ⟨y, form, -, value⟩ := short small.1 small.2
    cases form.symm.trans h
    exact value
  · obtain ⟨y, form, -, value⟩ := long inside.1 inside.2 (by omega)
    cases form.symm.trans h
    exact value

/-- A field of 15 bits, written and read back. -/
theorem ofInt_unsignedForm {n : BitVec 15} {x : Smart} (h : unsignedForm n.toNat = .ok x) :
    BitVec.ofInt 15 (unsignedSmart x) = n := by
  rw [unsignedForm_value h, BitVec.ofInt_natCast, BitVec.ofNat_toNat, BitVec.setWidth_eq]

/-- A writer of two parts that answers did both. -/
theorem except_bind_eq_ok {ε α β : Type} {x : Except ε α} {f : α → Except ε β} {b : β} (h : x >>= f = .ok b) :
    ∃ a, x = .ok a ∧ f a = .ok b := by
  cases x with
  | ok a => exact ⟨a, rfl, h⟩
  | error e => cases h

/-! ### Oscillator list, echo, times -/

/-- A partial is written as an entry that reads back as it. -/
theorem writePartial_entry {p : Partial} {bs : List Byte} (h : writePartial p = .ok bs) (sounds : p.amplitude ≠ 0) :
    ∃ e, entryBytes e = bs ∧ entryOf e = p ∧ e.1.isZero = false := by
  obtain ⟨a, amplitude, h⟩ := except_bind_eq_ok h
  obtain ⟨o, pitch, h⟩ := except_bind_eq_ok h
  obtain ⟨d, delay, h⟩ := except_bind_eq_ok h
  cases h
  refine ⟨(a, o, d), rfl, ?_, ?_⟩
  · rw [entryOf, partialOf, ofInt_unsignedForm amplitude, signedForm_value pitch, BitVec.ofInt_toInt,
      ofInt_unsignedForm delay]
  · refine Bool.eq_false_iff.2 fun zero => sounds ?_
    rw [← ofInt_unsignedForm amplitude, unsignedSmart_of_isZero zero]
    rfl

theorem writePartialList_entries {l : List Partial} {bs : List Byte} (h : writePartialList l = .ok bs)
    (sound : ∀ p ∈ l, p.amplitude ≠ 0) :
    ∃ es : List (Smart × Smart × Smart), es.flatMap entryBytes = bs ∧ es.map entryOf = l ∧ ∀ e ∈ es, e.1.isZero = false := by
  induction l generalizing bs with
  | nil =>
    cases h
    exact ⟨[], rfl, rfl, nofun⟩
  | cons p l ih =>
    obtain ⟨first, others⟩ := List.forall_mem_cons.1 sound
    obtain ⟨x, entry, h⟩ := except_bind_eq_ok h
    obtain ⟨y, list, h⟩ := except_bind_eq_ok h
    cases h
    obtain ⟨e, rfl, rfl, present⟩ := writePartial_entry entry first
    obtain ⟨es, rfl, rfl, rest⟩ := ih list others
    exact ⟨e :: es, rfl, rfl, List.forall_mem_cons.2 ⟨present, rest⟩⟩

section
variable {v : Fin 10} {bs : List Byte}

theorem fills_cfgPartials {l : List Partial} (h : writePartials l = .ok bs) (few : l.length ≤ 10)
    (sound : ∀ p ∈ l, p.amplitude ≠ 0) : Fills v (cfgPartials v) bs fun V => { V with partials := l } := by
  obtain ⟨x, list, h⟩ := except_bind_eq_ok h
  obtain ⟨es, rfl, rfl, present⟩ := writePartialList_entries list sound
  rw [List.length_map] at few
  intro s _ bytes
  cases h
  refine cfgPartials_of_read (readPartials_of_holds (z := .one 0) present few rfl ?_ bytes)
  rw [List.length_map]
  rfl

theorem fills_cfgEchorec {delay mix : BitVec 15} (h : writeEcho delay mix = .ok bs) :
    Fills v (cfgEchorec v) bs fun V => { V with echoDelay := delay, echoMix := mix } := by
  obtain ⟨d, first, h⟩ := except_bind_eq_ok h
  obtain ⟨m, second, h⟩ := except_bind_eq_ok h
  cases h
  intro s _ bytes
  rw [cfgEchorec_of_holds bytes, ofInt_unsignedForm first, ofInt_unsignedForm second]

theorem fills_cfgTimes (duration start : BitVec 16) : Fills v (cfgTimes v) (encode (.imgTimes duration start))
    fun V => { V with duration := duration, start := start } := fun _ _ bytes => cfgTimes_of_holds bytes

end

/-! ### Filters -/

/-- A filter record is its header and its poles. -/
theorem Filter.ext_poles {F G : Filter} (header : G.header = F.header) (poles : ∀ k, G.pole k = F.pole k) : G = F := by
  have same (last feedback : Bool) (i : Nat) (hi : i < 4) :
      G.pole ⟨last, feedback, ⟨i, hi⟩⟩ = F.pole ⟨last, feedback, ⟨i, hi⟩⟩ := poles _
  have ff0 : G.ff.first = F.ff.first := Vector.ext fun i hi => same false false i hi
  have ff1 : G.ff.last = F.ff.last := Vector.ext fun i hi => same true false i hi
  have fb0 : G.fb.first = F.fb.first := Vector.ext fun i hi => same false true i hi
  have fb1 : G.fb.last = F.fb.last := Vector.ext fun i hi => same true true i hi
  rw [Filter.eq_of_header header, ff0, ff1, fb0, fb1]

theorem poleAt_eq (F : Filter) (k : PoleAt) : poleAt F k.last k.feedback k.p = F.pole k := by
  obtain ⟨last, feedback, p⟩ := k
  cases last <;> cases feedback <;> rfl

/-- Whether the two endpoints of a pole differ. -/
abbrev Filter.modulated (F : Filter) (feedback : Bool) (p : Fin 4) : Prop :=
  F.pole ⟨false, feedback, p⟩ ≠ F.pole ⟨true, feedback, p⟩

/-- The mask with the bit of a pole set. -/
theorem maskBit_or_bit (m : Byte) (q : Bool × Fin 4) (feedback : Bool) (p : Fin 4) :
    maskBit (m ||| ((1 : Byte) <<< ((if q.1 then 4 else 0) + q.2.val))) feedback p =
      (maskBit m feedback p || decide ((feedback, p) = q)) := by
  have bit : maskBit ((1 : Byte) <<< ((if q.1 then 4 else 0) + q.2.val)) feedback p = decide ((feedback, p) = q) := by
    revert q feedback p
    decide
  rw [← bit, maskBit, maskBit, maskBit, BitVec.getLsbD_or]

/-- One pole's part in the recomputed mask. -/
def maskWith (F : Filter) (m : Byte) (q : Bool × Fin 4) : Byte :=
  if poleAt F false q.1 q.2 = poleAt F true q.1 q.2 then m
  else m ||| ((1 : Byte) <<< ((if q.1 then 4 else 0) + q.2.val))

theorem recomputedMask_eq (F : Filter) :
    recomputedMask F = (channelPoles F.ff.count F.fb.count).foldl (maskWith F) 0 := rfl

theorem maskBit_maskWith (F : Filter) (m : Byte) (q : Bool × Fin 4) (feedback : Bool) (p : Fin 4) :
    maskBit (maskWith F m q) feedback p = true ↔
      maskBit m feedback p = true ∨ (feedback, p) = q ∧ F.modulated feedback p := by
  rw [maskWith]
  split
  next same =>
    have still : (feedback, p) = q → ¬ F.modulated feedback p := by
      rintro rfl
      exact not_not.2 ((poleAt_eq F ⟨false, feedback, p⟩).symm.trans (same.trans (poleAt_eq F ⟨true, feedback, p⟩)))
    tauto
  next differ =>
    have now : (feedback, p) = q → F.modulated feedback p := by
      rintro rfl same
      exact differ ((poleAt_eq F ⟨false, feedback, p⟩).trans (same.trans (poleAt_eq F ⟨true, feedback, p⟩).symm))
    rw [maskBit_or_bit, Bool.or_eq_true, decide_eq_true_eq]
    tauto

/-- The bits of the recomputed mask: those of the poles whose endpoints differ (`40_config_load.md` R151). -/
theorem maskBit_recomputedMask (F : Filter) (feedback : Bool) (p : Fin 4) :
    maskBit (recomputedMask F) feedback p = true ↔
      p.val < (countOf F.ff.count F.fb.count feedback).toNat ∧ F.modulated feedback p := by
  have bits (l : List (Bool × Fin 4)) (m : Byte) : maskBit (l.foldl (maskWith F) m) feedback p = true ↔
      maskBit m feedback p = true ∨ (feedback, p) ∈ l ∧ F.modulated feedback p := by
    induction l generalizing m with
    | nil => simp
    | cons q l ih =>
      rw [List.foldl_cons, ih, maskBit_maskWith, List.mem_cons]
      tauto
  have none : ¬ maskBit 0 feedback p = true := Bool.eq_false_iff.1 BitVec.getLsbD_zero
  rw [recomputedMask_eq, bits, or_iff_right none, mem_channelPoles]

/-- The poles beyond the count of a channel that an image carries are blank. -/
theorem Channel.of_carried {c : Channel} (h : c.carried = true) :
    c.count.toNat ≤ 4 ∧ ∀ p : Fin 4, ¬ p.val < c.count.toNat → ∀ last, c.pole last p = Pole.blank := by
  simp only [Channel.carried, Bool.and_eq_true, decide_eq_true_eq, List.all_eq_true, Bool.or_eq_true, beq_iff_eq] at h
  obtain ⟨count, poles⟩ := h
  refine ⟨count, fun p beyond last => ?_⟩
  have all : ∀ q : Fin 4, q ∈ ([0, 1, 2, 3] : List (Fin 4)) := by decide
  obtain ⟨first, second⟩ := (poles p (all p)).resolve_left beyond
  cases last with
  | false => exact first
  | true => exact second

/-- The fields of a filter that an image carries. -/
theorem Filter.of_carried {F : Filter} (h : F.carried = true) :
    F.ff.carried = true ∧ F.fb.carried = true ∧ F.ff.count ≠ 0 ∧
      F.cutoffPresent = (recomputedMask F != 0 || F.gain0 != F.gain1) ∧
      F.cutoff = (if F.cutoffPresent then ⟨.off, 0, 0, F.cutoff.segs⟩ else Envelope.blank) ∧
      F.cutoff.carried = true := by
  simp only [Filter.carried, Bool.and_eq_true, bne_iff_ne] at h
  obtain ⟨⟨⟨⟨⟨ff, fb⟩, count⟩, present⟩, cutoff⟩, segs⟩ := h
  exact ⟨ff, fb, count, eq_of_beq present, eq_of_beq cutoff, segs⟩

/-- A pole whose endpoints are the same is written once, and its copy is itself (`40_config_load.md` R151). -/
theorem pole_poleSource (F : Filter) {k : PoleAt} (live : k.p.val < (countOf F.ff.count F.fb.count k.feedback).toNat) :
    F.pole (poleSource (recomputedMask F) k) = F.pole k := by
  obtain ⟨last, feedback, p⟩ := k
  cases last with
  | false => rfl
  | true =>
    rw [poleSource_last (x := F.pole)]
    split
    next => rfl
    next unflagged =>
      by_contra differ
      exact unflagged ((maskBit_recomputedMask F feedback p).2 ⟨live, differ⟩)

/-- What the writer writes of a filter that an image carries is the record of it. -/
theorem recordFilter_of_carried {F : Filter} (h : F.carried = true) :
    recordFilter F.ff.count F.fb.count F.gain0 F.gain1 (recomputedMask F) F.pole F.cutoff.segs = F := by
  obtain ⟨ff, fb, -, present, cutoff, -⟩ := Filter.of_carried h
  refine Filter.ext_poles ?_ fun k => ?_
  · rw [header_recordFilter, ← present, ← cutoff]
    rfl
  · rw [pole_recordFilter]
    split
    next live => exact pole_poleSource F live
    next beyond =>
      obtain ⟨last, feedback, p⟩ := k
      cases feedback with
      | false => exact ((Channel.of_carried ff).2 p beyond last).symm
      | true => exact ((Channel.of_carried fb).2 p beyond last).symm

theorem writeFilter_eq (F : Filter) : writeFilter F =
    encode (.imgFilterHeader F.ff.count F.fb.count F.gain0 F.gain1 (recomputedMask F))
      ++ poleBytes F.pole (polePlan F.ff.count F.fb.count (recomputedMask F))
      ++ cutoffBytes F.gain0 F.gain1 (recomputedMask F) (segmentPairs F.cutoff.segs) := by
  simp only [writeFilter, poleAt_eq, cutoffBytes, segmentBytes_segmentPairs, length_segmentPairs, Bool.or_eq_true,
    bne_iff_ne]
  rfl

/-- A first byte with a count of poles in channel 0 is above 4. -/
theorem packedCounts_above {c0 : BitVec 4} (c1 : BitVec 4) (h : c0 ≠ 0) : 4 < (c0 ++ c1 : Byte).toNat := by
  revert c0 c1
  decide

section
variable {v : Fin 10}

theorem fills_cfgFilter_absent :
    Fills v (cfgFilter v) (encode .imgFilterAbsent) fun V => { V with filterPresent := false, filter := Filter.blank } :=
  fun _ _ bytes => cfgFilter_of_zero bytes

/-- A filter with a pole in channel 0 is never taken for an envelope (`40_config_load.md` R144). -/
theorem fills_cfgFilter {F : Filter} (h : F.carried = true) :
    Fills v (cfgFilter v) (writeFilter F) fun V => { V with filterPresent := true, filter := F } := by
  obtain ⟨ff, fb, count, -, -, cutoff⟩ := Filter.of_carried h
  obtain ⟨short, peaks⟩ := Envelope.carried_iff.1 cutoff
  intro s whole bytes
  have above := packedCounts_above F.fb.count count
  have present : (F.ff.count ++ F.fb.count : Byte) ≠ 0 := fun zero => by
    rw [zero] at above
    exact absurd above (by decide)
  have first : s.holds ((F.ff.count ++ F.fb.count) :: (writeFilter F).tail) := bytes
  have body := cfgFilterbody_of_bytes (v := v) ⟨(Channel.of_carried ff).1, (Channel.of_carried fb).1⟩
    ((length_segmentPairs _).le.trans short) (writeFilter_eq F).symm bytes
  rw [segmentsOf_segmentPairs peaks, recordFilter_of_carried h] at body
  have kept : ((s.advance (writeFilter F).length).putFilter v F).keepFilter v =
      (s.advance (writeFilter F).length).putFilter v F := if_neg (Bool.eq_false_iff.1 whole)
  rw [cfgFilter_of_record first present (looksEnv_of_above first above), op_bind_ok _ _ body, op_modify, kept]

/-! ### Voices -/

/-- The fields of a voice that an image carries. -/
theorem Voice.of_carried {V : Voice} (h : V.carried = true) :
    (V.frequency.carried = true ∧ V.frequency.waveform ≠ .off) ∧ V.amplitude.carried = true ∧
      V.pitchLfo.carried = true ∧ V.amplitudeLfo.carried = true ∧ V.gate.carried = true ∧
      (V.partials.length ≤ 10 ∧ ∀ p ∈ V.partials, p.amplitude ≠ 0) ∧
      (if V.filterPresent then V.filter.carried = true else V.filter = Filter.blank) := by
  simp only [Voice.carried, Bool.and_eq_true, bne_iff_ne, decide_eq_true_eq, List.all_eq_true] at h
  obtain ⟨⟨⟨⟨⟨⟨⟨⟨frequency, wave⟩, amplitude⟩, pitchLfo⟩, amplitudeLfo⟩, gate⟩, few⟩, sound⟩, filter⟩ := h
  refine ⟨⟨frequency, wave⟩, amplitude, pitchLfo, amplitudeLfo, gate, ⟨few, sound⟩, ?_⟩
  split at filter
  next present => rwa [if_pos present]
  next absent => rw [if_neg absent, eq_of_beq filter]

/-- The filter of a voice, as it is written. -/
def writeFilterOf (V : Voice) : List Byte := if V.filterPresent then writeFilter V.filter else encode .imgFilterAbsent

theorem fills_filterOf {V : Voice}
    (h : if V.filterPresent then V.filter.carried = true else V.filter = Filter.blank) :
    Fills v (cfgFilter v) (writeFilterOf V) fun W => { W with filterPresent := V.filterPresent, filter := V.filter } := by
  rw [writeFilterOf]
  cases present : V.filterPresent with
  | false =>
    rw [present, if_neg Bool.false_ne_true] at h
    rw [if_neg Bool.false_ne_true, h]
    exact fills_cfgFilter_absent
  | true =>
    rw [present, if_pos rfl] at h
    exact fills_cfgFilter h

/-- `CFG.VOICE` on what the writer writes of a voice that an image carries: its nine records in order. -/
theorem fills_cfgVoice {V : Voice} {bs : List Byte} (h : V.carried = true) (written : writeVoice V = .ok bs) :
    Fills v (cfgVoice v) bs fun _ => V := by
  obtain ⟨⟨frequency, -⟩, amplitude, pitchLfo, amplitudeLfo, gate, ⟨few, sound⟩, filter⟩ := Voice.of_carried h
  obtain ⟨partials, list, written⟩ := except_bind_eq_ok written
  obtain ⟨echo, record, written⟩ := except_bind_eq_ok written
  have voice := Fills.field (v := v) (put := fun E V => { V with frequency := E }) (takes_readEnvelope frequency) <|
    Fills.field (put := fun E V => { V with amplitude := E }) (takes_readEnvelope amplitude) <|
    Fills.field (put := fun p V => { V with pitchLfo := p }) (takes_readPair pitchLfo) <|
    Fills.field (put := fun p V => { V with amplitudeLfo := p }) (takes_readPair amplitudeLfo) <|
    Fills.field (put := fun p V => { V with gate := p }) (takes_readPair gate) <|
    (fills_cfgPartials list few sound).andThen <| (fills_cfgEchorec record).andThen <|
      (fills_cfgTimes V.duration V.start).andThen (fills_filterOf filter)
  cases written
  simp only [List.append_assoc]
  exact voice

end

/-- A voice replaced, the valid bit as before. -/
theorem State.mapVoice_const (s : State) (v : Fin 10) (V : Voice) :
    (s.mapVoice v fun _ => V) = s.setSlot v ⟨s.isValid v, V⟩ := rfl

/-- Settles O45: the nine records of a voice, each taken from the bytes that the writer writes for it. -/
theorem voiceRoundTrip : Obligations.VoiceRoundTrip := by
  intro s V bytes carried written h whole
  exact congrArg finish (fills_cfgVoice carried written s whole h)

end Sys2Proof.Machine
end

section
/-! The whole image: every slot, the loop region and the normalisation; a written patch is read back (`40_config_load.md`
R130, R149, R150). -/

namespace Sys2Proof.Machine

/-! ### Slots changed one after the other -/

/-- The slots of a list changed in order, each by its own function. -/
def State.mapSlots (s : State) (g : Fin 10 → Slot → Slot) (l : List (Fin 10)) : State :=
  l.foldl (fun t v => t.setSlot v (g v (vget t.cfg.slot v))) s

section
variable {s : State} {g : Fin 10 → Slot → Slot} {l : List (Fin 10)} {v w : Fin 10}

/-- Only slots are written. -/
theorem State.mapSlots_eq (s : State) (g : Fin 10 → Slot → Slot) (l : List (Fin 10)) :
    s.mapSlots g l = s.setCfg { s.cfg with slot := (s.mapSlots g l).cfg.slot } := by
  induction l generalizing s with
  | nil => rfl
  | cons v l ih => exact ih (s.setSlot v (g v (vget s.cfg.slot v)))

theorem vget_mapSlots_other (h : w ∉ l) : vget (s.mapSlots g l).cfg.slot w = vget s.cfg.slot w := by
  induction l generalizing s with
  | nil => rfl
  | cons v l ih =>
    rw [List.mem_cons, not_or] at h
    obtain ⟨other, rest⟩ := h
    exact (ih (s := s.setSlot v (g v (vget s.cfg.slot v))) rest).trans (vget_vset_other _ _ other)

theorem vget_mapSlots (once : l.Nodup) (h : w ∈ l) :
    vget (s.mapSlots g l).cfg.slot w = g w (vget s.cfg.slot w) := by
  induction l generalizing s with
  | nil => cases h
  | cons v l ih =>
    obtain ⟨first, once⟩ := List.nodup_cons.1 once
    rcases List.mem_cons.1 h with rfl | later
    · exact (vget_mapSlots_other (s := s.setSlot w (g w (vget s.cfg.slot w))) first).trans (vget_vset_same _ _ _)
    · have other : w ≠ v := fun same => first (same ▸ later)
      refine (ih (s := s.setSlot v (g v (vget s.cfg.slot v))) once later).trans ?_
      rw [State.setSlot_cfg, vget_vset_other _ _ other]

/-- All ten slots. -/
theorem State.mapSlots_ten (s : State) (g : Fin 10 → Slot → Slot) : s.mapSlots g tenIndices =
    s.setCfg { s.cfg with slot := Vector.ofFn fun v => g v (vget s.cfg.slot v) } := by
  have all : ∀ v : Fin 10, v ∈ tenIndices := by decide
  have slots : (s.mapSlots g tenIndices).cfg.slot = Vector.ofFn fun v => g v (vget s.cfg.slot v) := by
    refine Vector.ext fun i hi => ?_
    rw [Vector.getElem_ofFn]
    exact vget_mapSlots (by decide) (all ⟨i, hi⟩)
  rw [State.mapSlots_eq, slots]

/-- The slot of a valid voice normalised. -/
def Slot.normalise (x : Slot) : Slot := if x.valid then ⟨true, x.voice.normalise⟩ else x

/-- A slot written with what it holds. -/
theorem State.setSlot_self (s : State) (v : Fin 10) : s.setSlot v (vget s.cfg.slot v) = s := s.mapVoice_id v

theorem State.normaliseAll_eq (s : State) : s.normaliseAll =
    s.setCfg { s.cfg with slot := Vector.ofFn fun v => (vget s.cfg.slot v).normalise } := by
  have body (t : State) (v : Fin 10) :
      (if t.isValid v then t.cfgNormalise v else t) = t.setSlot v (vget t.cfg.slot v).normalise := by
    unfold Slot.normalise
    split
    next valid =>
      have same : (vget t.cfg.slot v).valid = true := valid
      rw [if_pos same]
      show t.setSlot v ⟨(vget t.cfg.slot v).valid, _⟩ = _
      rw [same]
      rfl
    next empty => rw [if_neg (show ¬ (vget t.cfg.slot v).valid = true from empty), State.setSlot_self]
  rw [← State.mapSlots_ten s fun _ => Slot.normalise, State.mapSlots, State.normaliseAll]
  exact List.foldl_ext _ _ s fun t v _ => body t v

theorem State.setSlot_setSlot (s : State) (v : Fin 10) (x y : Slot) : (s.setSlot v x).setSlot v y = s.setSlot v y := by
  simp [State.setSlot, State.setCfg]

/-! ### The load -/

/-- The warning of a truncated image (`40_config_load.md` R130). -/
def State.warnTrunc (s : State) : State := if s.cfg.trunc then s.raiseWarn .trunc else s

/-- `CFG.LOAD` from its slots and its loop region. -/
theorem cfgLoad_of_reads {t u : State} (slots : loadSlots tenIndices s.startLoad = .ok ((), t))
    (loop : cfgLooprec t = .ok ((), u)) : cfgLoad s = .ok ((), u.warnTrunc.normaliseAll) := by
  rw [cfgLoad, op_bind_ok _ _ (op_modify _ s), op_bind_ok _ _ slots, op_bind_ok _ _ loop]
  rfl

/-! ### A written patch -/

/-- A written voice begins with the byte of a waveform that is not Off: it is no empty slot (`30_encoding.md` R92). -/
theorem writeVoice_head {V : Voice} {bs : List Byte} (h : V.carried = true) (written : writeVoice V = .ok bs) :
    ∃ b ys, b ≠ 0 ∧ bs = b :: ys := by
  obtain ⟨⟨-, wave⟩, -⟩ := Voice.of_carried h
  obtain ⟨partials, -, written⟩ := except_bind_eq_ok written
  obtain ⟨echo, -, written⟩ := except_bind_eq_ok written
  cases written
  exact ⟨_, _, waveformByte_ne_zero wave, rfl⟩

/-- A slot as it is written. -/
def writeSlot (x : Slot) : Except Cause (List Byte) := if x.valid then writeVoice x.voice else pure (encode .imgSlotEmpty)

theorem writeSlots_cons (c : Cfg) (v : Fin 10) (l : List (Fin 10)) : writeSlots c (v :: l) = (do
    let x ← writeSlot (vget c.slot v)
    let y ← writeSlots c l
    pure (x ++ y)) := by
  rw [writeSlots, writeSlot]
  split
  next => rfl
  next => rfl

/-- A written slot is read back. -/
theorem cfgSlot_of_written {x : Slot} {bs : List Byte} (carried : x.carried = true) (written : writeSlot x = .ok bs)
    (whole : s.cfg.trunc = false) (h : s.holds bs) : cfgSlot v s = .ok ((), (s.advance bs.length).setSlot v x) := by
  obtain ⟨valid, V⟩ := x
  cases valid with
  | false =>
    cases written
    have blank : (⟨false, V⟩ : Slot) = Slot.blank := eq_of_beq carried
    rw [blank]
    exact cfgSlot_of_zero h
  | true =>
    obtain ⟨b, ys, present, rfl⟩ := writeVoice_head carried written
    have voice := fills_cfgVoice (v := v) carried written (s.setSlot v ⟨true, s.voiceOf v⟩) whole h
    rw [cfgSlot_of_voice h present, voice, State.mapVoice_const, State.isValid]
    have valid : vget ((s.setSlot v ⟨true, s.voiceOf v⟩).advance (b :: ys).length).cfg.slot v = ⟨true, s.voiceOf v⟩ :=
      vget_vset_same _ _ _
    rw [valid]
    exact congrArg (fun t => Except.ok ((), t)) (State.setSlot_setSlot (s.advance (b :: ys).length) v _ _)

/-- Written slots are read back in order. -/
theorem loadSlots_of_written {c : Cfg} {bs : List Byte} (carried : ∀ v ∈ l, (vget c.slot v).carried = true)
    (written : writeSlots c l = .ok bs) (whole : s.cfg.trunc = false) (h : s.holds bs) :
    loadSlots l s = .ok ((), (s.advance bs.length).mapSlots (fun v _ => vget c.slot v) l) := by
  induction l generalizing s bs with
  | nil =>
    cases written
    exact congrArg (fun t => Except.ok ((), t)) State.advance_zero.symm
  | cons v l ih =>
    obtain ⟨first, carried⟩ := List.forall_mem_cons.1 carried
    rw [writeSlots_cons] at written
    obtain ⟨x, slot, written⟩ := except_bind_eq_ok written
    obtain ⟨y, rest, written⟩ := except_bind_eq_ok written
    cases written
    obtain ⟨here, behind⟩ := holds_append h
    rw [loadSlots, op_bind_ok _ _ (cfgSlot_of_written first slot whole here),
      ih (s := (s.advance x.length).setSlot v (vget c.slot v)) carried rest whole behind, List.length_append,
      ← State.advance_advance]
    rfl

theorem vget_ofFn {α : Type} (f : Fin 10 → α) (v : Fin 10) : vget (Vector.ofFn f) v = f v := Vector.getElem_ofFn ..

/-- The state after a load of a written patch of `n` bytes: its slots normalised, its loop region, the cursor behind it,
and no warning. -/
def State.withPatch (s : State) (c : Cfg) (n : Nat) : State := s.startLoad.setCfg
  { s.startLoad.cfg with
    slot := c.slot.map Slot.normalise
    loopBegin := c.loopBegin, loopEnd := c.loopEnd, pos := BitVec.ofNat 32 n }

/-- `CFG.LOAD` of a written patch. -/
theorem cfgLoad_of_written {c : Cfg} {bs : List Byte} (carried : c.carried = true) (written : writePatch c = .ok bs)
    (h : s.startLoad.holds bs) : cfgLoad s = .ok ((), s.withPatch c bs.length) := by
  obtain ⟨slots, list, written⟩ := except_bind_eq_ok written
  cases written
  obtain ⟨here, behind⟩ := holds_append h
  have load := loadSlots_of_written (fun v mem => List.all_eq_true.1 carried v mem) list rfl here
  rw [State.mapSlots_ten] at load
  have slot : (Vector.ofFn fun v => (vget (Vector.ofFn fun v => vget c.slot v) v).normalise) =
      c.slot.map Slot.normalise := by
    refine Vector.ext fun i hi => ?_
    rw [Vector.getElem_ofFn, vget_ofFn, Vector.getElem_map]
    rfl
  have pos : s.startLoad.cfg.pos + BitVec.ofNat 32 slots.length + BitVec.ofNat 32 4 =
      BitVec.ofNat 32 (slots ++ encode (.imgLoop c.loopBegin c.loopEnd)).length := by
    rw [List.length_append, BitVec.ofNat_add]
    exact congrArg (· + _) (BitVec.zero_add _)
  rw [cfgLoad_of_reads load (cfgLooprec_of_holds behind), State.normaliseAll_eq, State.withPatch, ← slot, ← pos]
  rfl

end

/-- Settles O49: `CMD.LOAD` is `CFG.LOAD` between the entry and the end of the command. -/
theorem patchRoundTrip : Obligations.PatchRoundTrip := by
  intro s c bytes carried written accepts length image
  have begins : (s.beginCommand .loading).startLoad.holds bytes :=
    ⟨(Nat.zero_add _).trans_le length.ge, fun k hk => (congrArg _ (Nat.zero_add k)).trans (image k hk)⟩
  have idle : s.status.busy = false := by
    have both := (Bool.and_eq_true_iff.1 accepts).1
    simpa using both
  have pos : BitVec.ofNat 32 bytes.length = s.cfg.len := by
    rw [← length, BitVec.ofNat_toNat, BitVec.setWidth_eq]
  have load : cmdLoad s = .ok ((), ((s.beginCommand .loading).withPatch c bytes.length).endLoad) := by
    rw [cmdLoad_of_accepted accepts, cfgLoad_of_written carried written begins]
    rfl
  refine ⟨_, congrArg finish load, rfl, ?_, rfl, rfl, ?_⟩
  · exact congrArg (fun b => ({ s.status with busy := b, warn := false, done := false } : Status)) idle.symm
  · exact congrArg (fun p => (⟨c.slot.map Slot.normalise, c.loopBegin, c.loopEnd, s.cfg.loopCount, p, s.cfg.len,
      false⟩ : Cfg)) pos

end Sys2Proof.Machine
end

section
/-! A load over a written image: it completes whatever the bytes are, and unless a reserved count ends it the
configuration that it leaves is legal (`40_config_load.md` R130, R149, R154; `60_exceptions.md` R345, R347). -/

namespace Sys2Proof.Machine

/-! ### Reads -/

/-- The partials that are read have no amplitude of 0 (`30_encoding.md` R97). -/
theorem held_of_readPartials {s t : State} {n : Nat} {l : List Partial} (h : readPartials n s = .ok (l, t)) :
    partialsHeld n l := by
  have ends := readPartials_keeps (I := fun _ => True) ⟨fun _ _ => trivial, fun _ => trivial, fun _ => trivial⟩ n s trivial
  rw [h] at ends
  cases ends with
  | done held => exact held

/-- A byte that the image answers is one of those written. -/
theorem mem_of_read {m : Image} {a : Nat} {b : Byte} (h : m.read a = some b) : (a, b) ∈ m := by
  obtain ⟨before, behind, rfl, -⟩ := List.lookup_eq_some_iff.1 h
  simp

/-! ### What a load keeps -/

/-- A voice of which only the envelopes may break `40_config_load.md` R154, before normalisation. -/
structure Voice.Sound (V : Voice) : Prop where
  partials : partialsHeld 10 V.partials
  filter : V.filterPresent = true → V.filter.legal = true

/-- The state `s` with everything that a load writes taken from `t`. -/
def State.withLoad (s t : State) : State :=
  ((s.setCfg { t.cfg with len := s.cfg.len, loopCount := s.cfg.loopCount }).setWarn t.warnCount t.warnMask).setStatus
    { s.status with warn := t.status.warn }

/-- A load from `k` has reached `t`: nothing but what it writes has changed, the warnings agree with their count, none
of them is `E_TRUNC`, which is the last to be raised, and every slot's voice is as `P` says. -/
structure State.Loading (k : State) (P : Fin 10 → Voice → Prop) (t : State) : Prop where
  frame : t = k.withLoad t
  warned : t.status.warn = true ↔ t.warnCount ≠ 0
  mask : t.warnMask.getLsbD 0 = false
  voices : ∀ w, P w (t.voiceOf w)

/-- How a step of a load over a written image ends: further on, or at a byte that names a reserved count. -/
inductive LoadEnds (k : State) (P : Fin 10 → Voice → Prop) : Except Stop (Unit × State) → Prop
  | done {t : State} (state : k.Loading P t) : LoadEnds k P (.ok ((), t))
  | reserved {u : State} (frame : u = k.withLoad u) (byte : ¬ k.nibblesLegal) :
      LoadEnds k P (.error (.fatal (u.fatalEntry .reserved)))

/-- The step takes the load from voices as `P` says to voices as `Q` says. -/
def Loads (k : State) (P Q : Fin 10 → Voice → Prop) (m : Op Unit) : Prop := ∀ t, k.Loading P t → LoadEnds k Q (m t)

/-! ### The updates of a load -/

section
variable {k t : State} {P Q R : Fin 10 → Voice → Prop} {A B : Voice → Prop} {v : Fin 10} {f : Voice → Voice}

theorem State.Loading.mono (h : k.Loading P t) (weaker : ∀ w V, P w V → Q w V) : k.Loading Q t :=
  ⟨h.frame, h.warned, h.mask, fun w => weaker w _ (h.voices w)⟩

theorem State.Loading.moved (h : k.Loading P t) (pos : Word) (trunc : Bool) : k.Loading P (t.moved pos trunc) :=
  ⟨congrArg (·.moved pos trunc) h.frame, h.warned, h.mask, h.voices⟩

theorem State.Loading.setLoop (h : k.Loading P t) (first last : BitVec 16) : k.Loading P (t.setLoop first last) :=
  ⟨congrArg (·.setLoop first last) h.frame, h.warned, h.mask, h.voices⟩

theorem State.Loading.setSlot (h : k.Loading P t) {x : Slot} (hx : A x.voice) :
    k.Loading (Function.update P v A) (t.setSlot v x) := by
  refine ⟨congrArg (·.setSlot v x) h.frame, h.warned, h.mask, fun w => ?_⟩
  by_cases same : w = v
  · rw [same, Function.update_self, State.voiceOf_setSlot_same]
    exact hx
  · rw [Function.update_of_ne same, State.voiceOf_setSlot_other t x same]
    exact h.voices w

/-- The voice under way changes, the others stay. -/
theorem State.Loading.mapVoice (h : k.Loading (Function.update P v A) t) (hf : ∀ V, A V → B (f V)) :
    k.Loading (Function.update P v B) (t.mapVoice v f) := by
  have voice : A (t.voiceOf v) := by simpa using h.voices v
  rw [← Function.update_idem]
  exact h.setSlot (x := ⟨(vget t.cfg.slot v).valid, f (t.voiceOf v)⟩) (hf _ voice)

theorem Voice.blank_sound : Voice.blank.Sound := ⟨⟨Nat.zero_le _, nofun⟩, nofun⟩

/-- A voice without its filter is sound if its partials are. -/
theorem State.Loading.dropFilter (h : k.Loading (Function.update P v fun V => partialsHeld 10 V.partials) t) :
    k.Loading (Function.update P v Voice.Sound) (t.dropFilter v) := h.mapVoice fun _ held => ⟨held, nofun⟩

/-- The warning of a discarded filter. -/
theorem State.Loading.discard (h : k.Loading P t) : k.Loading P (t.raiseWarn .filterDiscard) where
  frame := congrArg (·.raiseWarn .filterDiscard) h.frame
  warned := by simpa using warnCountUp_ne_zero t.warnCount
  mask := by
    rw [State.raiseWarn_warnMask, BitVec.getLsbD_or, h.mask]
    rfl
  voices := h.voices

theorem State.Loading.keepFilter (h : k.Loading (Function.update P v Voice.Sound) t) :
    k.Loading (Function.update P v Voice.Sound) (t.keepFilter v) := by
  rw [State.keepFilter]
  split
  next => exact (h.mapVoice fun _ sound => ⟨sound.partials, nofun⟩).discard
  next => exact h

/-! ### Rules -/

theorem Loads.seq {m n : Op Unit} (first : Loads k P Q m) (second : Loads k Q R n) : Loads k P R (do m; n) := by
  intro t h
  have ends := first t h
  rcases op_bind_cases m (fun _ => n) t with ⟨a, u, ran, both⟩ | ⟨e, ran, both⟩ <;> rw [ran] at ends <;> rw [both]
  · cases ends with
    | done state => exact second u state
  · cases ends with
    | reserved frame byte => exact .reserved frame byte

theorem Loads.update {f : State → State} (hf : ∀ t, k.Loading P t → k.Loading Q (f t)) : Loads k P Q (modify f) :=
  fun t h => .done (hf t h)

/-- The image of a load is the one it began with. -/
theorem State.Loading.written (h : k.Loading P t) (written : k.written 0) : t.written 0 := by
  rw [h.frame]
  exact written

theorem Loads.ite {c : Prop} [Decidable c] {m n : Op Unit} (hm : Loads k P Q m) (hn : Loads k P Q n) :
    Loads k P Q (if c then m else n) := by
  split
  · exact hm
  · exact hn

/-- A record read on the way. -/
theorem Loads.read {α : Type} {r : Op α} {g : α → Op Unit} (written : k.written 0) (reader : Reader r)
    (hg : ∀ a, Loads k P Q (g a)) : Loads k P Q (r >>= g) := by
  intro t h
  obtain ⟨a, pos, trunc, read⟩ := reader.of_written (h.written written)
  rw [op_bind_ok _ _ read]
  exact hg a _ (h.moved pos trunc)

/-- A record read and written into a voice of which nothing is told yet. -/
theorem Loads.field {α : Type} {r : Op α} {put : α → Voice → Voice} (written : k.written 0) (reader : Reader r)
    {n : Op Unit} (rest : Loads k (Function.update P v fun _ => True) Q n) :
    Loads k (Function.update P v fun _ => True) Q (do let a ← r; modify fun s => s.mapVoice v (put a); n) :=
  .read written reader fun _ => (Loads.update fun _ h => h.mapVoice fun _ _ => trivial).seq rest

/-! ### The operations -/

variable (written : k.written 0)
include written

theorem loads_cfgPartials : Loads k (Function.update P v A)
    (Function.update P v fun V => partialsHeld 10 V.partials) (cfgPartials v) := by
  intro t h
  obtain ⟨l, pos, trunc, read⟩ := (reader_readPartials 10).of_written (h.written written)
  have held : partialsHeld 10 l := held_of_readPartials read
  rw [cfgPartials_of_read read]
  exact .done ((h.moved pos trunc).mapVoice fun _ _ => held)

theorem loads_cfgEchorec (same : ∀ V delay mix, A V → A { V with echoDelay := delay, echoMix := mix }) :
    Loads k (Function.update P v A) (Function.update P v A) (cfgEchorec v) :=
  .read written (reader_readSmart _ _) fun _ => .read written (reader_readSmart _ _) fun _ =>
    .update fun _ h => h.mapVoice fun V => same V _ _

theorem loads_cfgTimes (same : ∀ V duration start, A V → A { V with duration := duration, start := start }) :
    Loads k (Function.update P v A) (Function.update P v A) (cfgTimes v) :=
  .read written (.imgU 2) fun _ => .read written (.imgU 2) fun _ => .update fun _ h => h.mapVoice fun V => same V _ _

/-- A filter record is stored legal, or its first byte names a reserved count. -/
theorem loads_cfgFilterbody : Loads k (Function.update P v fun V => partialsHeld 10 V.partials)
    (Function.update P v Voice.Sound) (cfgFilterbody v) := by
  intro t h
  have image : t.img = k.img := by rw [h.frame]; rfl
  rcases cfgFilterbody_cases v t with ⟨F, pos, trunc, legal, stored⟩ | ⟨a, unwritten, -⟩ |
    ⟨b, byte, reserved, raised⟩
  · rw [stored]
    exact .done ((h.moved pos trunc).mapVoice fun _ held => ⟨held, fun _ => legal⟩)
  · exact absurd unwritten (not_unwrittenAt (h.written written))
  · rw [raised]
    rw [image] at byte
    have frame := (h.moved (t.advance 1).cfg.pos (t.advance 1).cfg.trunc).frame
    refine .reserved frame fun legal => ?_
    obtain ⟨high, low⟩ : b.toNat / 16 ≤ 4 ∧ b.toNat % 16 ≤ 4 := legal _ (mem_of_read byte)
    omega

/-- The heuristic changes nothing. -/
theorem loads_looksEnv {g : Bool → Op Unit} (hg : ∀ a, Loads k P Q (g a)) : Loads k P Q (looksEnv >>= g) := by
  intro t h
  rcases looksEnv_cases t with ⟨a, read⟩ | ⟨a, unwritten, -⟩
  · rw [op_bind_ok _ _ read]
    exact hg a t h
  · exact absurd unwritten (not_unwrittenAt (h.written written))

theorem loads_cfgFilter : Loads k (Function.update P v fun V => partialsHeld 10 V.partials)
    (Function.update P v Voice.Sound) (cfgFilter v) := by
  have drop : Loads k (Function.update P v fun V => partialsHeld 10 V.partials) (Function.update P v Voice.Sound)
    (modify fun s => s.dropFilter v) := .update fun _ h => h.dropFilter
  refine .read written (.imgPeek 0) fun b => ?_
  cases b with
  | none => exact drop
  | some b =>
    refine .ite (.read written (.imgU 1) fun _ => drop) (loads_looksEnv written fun _ => .ite drop ?_)
    exact (loads_cfgFilterbody written).seq (.update fun _ h => h.keepFilter)

/-- A voice is read from nothing. -/
theorem loads_cfgVoice : Loads k (Function.update P v fun _ => True) (Function.update P v Voice.Sound) (cfgVoice v) := by
  refine .field written reader_readEnvelope (.field written reader_readEnvelope ?_)
  refine .field written reader_readPair (.field written reader_readPair (.field written reader_readPair ?_))
  exact (loads_cfgPartials written).seq <| (loads_cfgEchorec written fun _ _ _ => id).seq <|
    (loads_cfgTimes written fun _ _ _ => id).seq (loads_cfgFilter written)

theorem loads_cfgSlot : Loads k P (Function.update P v Voice.Sound) (cfgSlot v) := by
  have empty : Loads k P (Function.update P v Voice.Sound) (modify fun s => s.setSlot v Slot.blank) :=
    .update fun _ h => h.setSlot Voice.blank_sound
  refine .read written (.imgPeek 0) fun b => ?_
  cases b with
  | none => exact .update fun t h => (h.moved t.cfg.pos true).setSlot Voice.blank_sound
  | some b =>
    refine .ite (.read written (.imgU 1) fun _ => empty) ?_
    exact .seq (.update fun t h => h.setSlot (A := fun _ => True) trivial) (loads_cfgVoice written)

/-- The slots of a list, of which the others are sound. -/
theorem loads_loadSlots (l : List (Fin 10)) :
    Loads k (fun w V => w ∉ l → V.Sound) (fun _ => Voice.Sound) (loadSlots l) := by
  induction l with
  | nil => exact fun t h => .done (h.mono fun w V sound => sound nofun)
  | cons v l ih =>
    refine (loads_cfgSlot written).seq fun t h => ih t (h.mono fun w V held other => ?_)
    by_cases same : w = v
    · rw [same, Function.update_self] at held
      exact held
    · rw [Function.update_of_ne same] at held
      exact held (by simp [same, other])

theorem loads_cfgLooprec : Loads k P P cfgLooprec := by
  intro t h
  rw [cfgLooprec, op_bind_ok _ _ (op_get t)]
  have ends : Loads k P P (if 4 ≤ t.remaining then do
      let first ← imgU 2
      let last ← imgU 2
      modify fun s => s.setLoop (BitVec.ofNat 16 first) (BitVec.ofNat 16 last)
    else modify fun s => s.setLoop 0 0) :=
    .ite (.read written (.imgU 2) fun _ => .read written (.imgU 2) fun _ => .update fun _ h => h.setLoop _ _)
      (.update fun _ h => h.setLoop 0 0)
  exact ends t h

end

/-! ### The normalised patch -/

section
variable {k s t : State} {v : Fin 10}

/-- A normalised envelope has a segment, or no way to go. -/
theorem Envelope.legal_normalise (E : Envelope) (duration : BitVec 16) : (E.normalise duration).legal = true := by
  rw [Envelope.normalise_eq]
  split
  next => rfl
  next ends =>
    simp only [Envelope.legal, Bool.or_eq_true, Bool.not_eq_true', beq_iff_eq, List.isEmpty_eq_false_iff]
    tauto

theorem EnvPair.legal_normalise (p : EnvPair) (duration : BitVec 16) : (p.normalise duration).legal = true := by
  rw [EnvPair.normalise]
  split
  next => simp [EnvPair.legal, Envelope.legal_normalise]
  next absent => simp [EnvPair.legal, Bool.eq_false_iff.2 absent]

theorem Voice.Sound.legal_normalise {V : Voice} (h : V.Sound) : V.normalise.legal = true := by
  obtain ⟨⟨few, loud⟩, filter⟩ := h
  have partials : V.partials.all (fun p => p.amplitude != 0) = true := by simpa using loud
  have length : decide (V.partials.length ≤ Config.maxPartials) = true := decide_eq_true few
  have record : (!V.filterPresent || V.filter.legal) = true := by
    cases present : V.filterPresent with
    | false => rfl
    | true => exact filter present
  simp only [Voice.legal, Voice.normalise, Envelope.legal_normalise, EnvPair.legal_normalise, partials, record,
    Bool.and_true, Bool.true_and]
  exact length

/-- Normalisation makes sound voices legal (`40_config_load.md` R149, R154). -/
theorem legal_normaliseAll (h : ∀ v, (s.voiceOf v).Sound) : s.normaliseAll.cfg.legal = true := by
  refine List.all_eq_true.2 fun v _ => ?_
  have slot : vget s.normaliseAll.cfg.slot v = (vget s.cfg.slot v).normalise := by
    rw [State.normaliseAll_eq]
    exact vget_ofFn _ v
  rw [slot, Slot.normalise]
  split
  next => exact (h v).legal_normalise
  next empty => simp [Bool.eq_false_iff.2 empty]

/-- What a load that is not ended by a reserved count leaves. -/
structure State.LoadedFrom (k t : State) : Prop where
  legal : t.cfg.legal = true
  frame : t = k.withLoad t
  warned : t.status.warn = true ↔ t.warnCount ≠ 0
  mask : t.cfg.trunc = true ↔ t.warnMask.getLsbD 0 = true

/-- The last two steps of a load. -/
theorem State.Loading.loaded (h : k.Loading (fun _ => Voice.Sound) t) : k.LoadedFrom t.warnTrunc.normaliseAll := by
  obtain ⟨frame, warned, mask, voices⟩ := h
  have slots : ∀ v, (t.warnTrunc.voiceOf v).Sound := by
    rw [State.warnTrunc]
    split
    · exact voices
    · exact voices
  have frame : t.warnTrunc = k.withLoad t.warnTrunc := by
    rw [State.warnTrunc]
    split
    · exact congrArg (·.raiseWarn .trunc) frame
    · exact frame
  have warned : t.warnTrunc.status.warn = true ↔ t.warnTrunc.warnCount ≠ 0 := by
    rw [State.warnTrunc]
    split
    · simpa using warnCountUp_ne_zero t.warnCount
    · exact warned
  have mask : t.warnTrunc.cfg.trunc = true ↔ t.warnTrunc.warnMask.getLsbD 0 = true := by
    rw [State.warnTrunc]
    split
    next cut => simp [cut, Cause.maskBit]
    next whole => exact iff_of_false whole (Bool.eq_false_iff.1 mask)
  have legal := legal_normaliseAll slots
  rw [State.normaliseAll_eq] at legal ⊢
  exact ⟨legal, congrArg (fun u => u.setCfg { u.cfg with
    slot := Vector.ofFn fun v => (vget t.warnTrunc.cfg.slot v).normalise }) frame, warned, mask⟩

/-- The reads of a load. -/
def loadReads : Op Unit := do
  loadSlots tenIndices
  cfgLooprec

theorem cfgLoad_of_loadReads (h : loadReads s.startLoad = .ok ((), t)) :
    cfgLoad s = .ok ((), t.warnTrunc.normaliseAll) := by
  obtain ⟨_, u, slots, loop⟩ := op_bind_eq_ok h
  exact cfgLoad_of_reads slots loop

theorem cfgLoad_of_loadReads_error {e : Stop} (h : loadReads s.startLoad = .error e) : cfgLoad s = .error e := by
  rw [cfgLoad, op_bind_ok _ _ (op_modify _ s)]
  rcases op_bind_cases (loadSlots tenIndices) (fun _ => cfgLooprec) s.startLoad with ⟨a, u, slots, loop⟩ |
    ⟨e', slots, both⟩
  · rw [op_bind_ok _ _ slots, op_bind_error _ _ (loop.symm.trans h)]
  · rw [op_bind_error _ _ slots]
    exact both.symm.trans h

/-- A load over a written image: it completes, or a reserved count ends it. -/
theorem cfgLoad_ends (written : s.written 0) : (∃ t, cfgLoad s = .ok ((), t) ∧ s.LoadedFrom t) ∨
    ∃ u, u = s.withLoad u ∧ ¬ s.nibblesLegal ∧ cfgLoad s = .error (.fatal (u.fatalEntry .reserved)) := by
  have all : ∀ v : Fin 10, v ∈ tenIndices := by decide
  have start : s.Loading (fun w V => w ∉ tenIndices → V.Sound) s.startLoad :=
    ⟨rfl, by simp [State.startLoad], by simp [State.startLoad], fun w other => absurd (all w) other⟩
  have ends : LoadEnds s _ (loadReads s.startLoad) :=
    ((loads_loadSlots written tenIndices).seq (loads_cfgLooprec written)) _ start
  generalize reads : loadReads s.startLoad = r at ends
  cases ends with
  | done state => exact .inl ⟨_, cfgLoad_of_loadReads reads, state.loaded⟩
  | reserved frame byte => exact .inr ⟨_, frame, byte, cfgLoad_of_loadReads_error reads⟩

/-! ### The empty image -/

/-- Without an image every slot is empty, and the truncation is marked. -/
theorem loadSlots_of_empty {l : List (Fin 10)} (empty : s.remaining = 0) :
    loadSlots (v :: l) s = .ok ((), s.markTrunc.mapSlots (fun _ _ => Slot.blank) (v :: l)) := by
  rw [loadSlots, op_bind_ok _ _ (cfgSlot_of_empty empty)]
  induction l generalizing s v with
  | nil => rfl
  | cons w l ih =>
    rw [loadSlots, op_bind_ok _ _ (cfgSlot_of_empty (s := s.markTrunc.setSlot v Slot.blank) empty)]
    exact ih (s := s.markTrunc.setSlot v Slot.blank) empty

/-- The configuration that a load without an image leaves (`40_config_load.md` R130). -/
def Cfg.ofEmptyImage (c : Cfg) : Cfg :=
  { c with slot := Vector.replicate 10 Slot.blank, loopBegin := 0, loopEnd := 0, pos := 0, trunc := true }

theorem cfgLoad_of_empty (empty : s.cfg.len = 0) :
    cfgLoad s = .ok ((), (s.startLoad.setCfg s.cfg.ofEmptyImage).raiseWarn .trunc) := by
  have bytes : s.startLoad.remaining = 0 := by
    simp [State.remaining, State.startLoad, empty]
  have slots : loadSlots tenIndices s.startLoad =
      .ok ((), s.startLoad.markTrunc.mapSlots (fun _ _ => Slot.blank) tenIndices) := loadSlots_of_empty bytes
  rw [State.mapSlots_ten] at slots
  have blank : (Vector.ofFn fun v => (vget (Vector.ofFn fun _ : Fin 10 => Slot.blank) v).normalise) =
      Vector.replicate 10 Slot.blank := by
    refine Vector.ext fun i hi => ?_
    rw [Vector.getElem_ofFn, vget_ofFn, Vector.getElem_replicate]
    rfl
  have few : s.startLoad.remaining < 4 := by omega
  rw [cfgLoad_of_reads slots (cfgLooprec_of_few few), State.normaliseAll_eq, Cfg.ofEmptyImage, ← blank]
  rfl

end

/-- Settles O47: by how the reads of the load end, and for the empty image by what they are. -/
theorem loadCompletes : Obligations.LoadCompletes := by
  intro s written
  have blank (len : s.cfg.len = 0) : ∀ t, exec .cfgLoad s = .next t → t.errCause = s.errCause ∧
      (∀ v, t.isValid v = false) ∧ t.cfg.loopBegin = 0 ∧ t.cfg.loopEnd = 0 ∧ t.cfg.pos = 0 ∧ t.warnCount = 1 ∧
        t.warnMask = 1 := by
    intro t load
    have same : exec .cfgLoad s = finish (cfgLoad s) := rfl
    rw [same, cfgLoad_of_empty len] at load
    cases load
    refine ⟨rfl, fun v => ?_, rfl, rfl, rfl, ?_, ?_⟩
    · show (vget (Vector.replicate 10 Slot.blank) v).valid = false
      rw [vget, Vector.getElem_replicate]
      rfl
    · rfl
    · show (0 : Byte) ||| 1 = 1
      decide
  rcases cfgLoad_ends written with ⟨t, load, loaded⟩ | ⟨u, frame, byte, load⟩
  · obtain ⟨legal, frame, warned, mask⟩ := loaded
    have next : exec .cfgLoad s = .next t := congrArg finish load
    refine ⟨t, next, .inr ⟨legal, frame, warned, mask⟩, fun _ => ⟨legal, ?_, ?_⟩, fun len => blank len t next⟩
    · rw [frame]
      rfl
    · rw [frame]
      rfl
  · have next : exec .cfgLoad s = .next (u.fatalEntry .reserved) := congrArg finish load
    exact ⟨_, next, .inl ⟨rfl, rfl, rfl, rfl⟩, fun legal => absurd legal byte, fun len => blank len _ next⟩

end Sys2Proof.Machine
end

section
/-! The envelope unit (`41_envelope.md` R170 to R182): its operations in integers, and the bounds of the values that it
returns. -/

namespace Sys2Proof.Machine

/-! ### Levels -/

/-- A level is the scaled value as an integer (`41_envelope.md` R171). -/
theorem toLevel_eq_ofInt (x : Word) : toLevel x = BitVec.ofInt 64 (x.toInt * 32768) := by
  have scale : BitVec.twoPow 64 15 = BitVec.ofInt 64 32768 := by decide
  rw [toLevel, Config.levelShift, BitVec.shiftLeft_eq_mul_twoPow, scale, BitVec.ofInt_mul, BitVec.signExtend]

/-- A scaled value does not wrap (`41_envelope.md` R182). -/
@[simp] theorem toInt_toLevel (x : Word) : (toLevel x).toInt = x.toInt * 32768 := by
  have := x.le_toInt
  have := x.toInt_lt
  rw [toLevel_eq_ofInt, BitVec.toInt_ofInt, Int.bmod_eq_of_le] <;> omega

/-- The value of a level between two scaled `s32` values is its floor (`41_envelope.md` R171). -/
theorem toInt_levelValue {level : Wide} (low : -2147483648 * 32768 ≤ level.toInt)
    (high : level.toInt ≤ 2147483647 * 32768) :
    ((level.sshiftRight 15).setWidth 32 : Word).toInt = level.toInt / 32768 := by
  have floor : (level.sshiftRight 15).toInt = level.toInt / 32768 := by
    rw [BitVec.toInt_sshiftRight, Int.shiftRight_eq_div_pow]
    norm_num
  rw [BitVec.toInt_setWidth, ← Int.bmod_bmod_of_dvd (m := 2 ^ 64) (by decide), ← BitVec.toInt_eq_toNat_bmod, floor,
    Int.bmod_eq_of_le] <;> omega

/-- The value of a scaled value is that value. -/
@[simp] theorem levelValue_toLevel (x : Word) : ((toLevel x).sshiftRight 15).setWidth 32 = x := by
  have := x.le_toInt
  have := x.toInt_lt
  apply BitVec.eq_of_toInt_eq
  rw [toInt_levelValue (by rw [toInt_toLevel]; omega) (by rw [toInt_toLevel]; omega), toInt_toLevel]
  omega

/-! ### Segments, thresholds and deltas -/

/-- Below the number of segments nothing is clamped. -/
theorem Envelope.segAt_of_lt {E : Envelope} {k : Nat} (h : k < E.segs.length) :
    E.segAt k = (E.segs[k]?).getD ⟨0, 0⟩ := by
  rw [Envelope.segAt, Nat.min_eq_left (by omega)]

/-- What an index reads is a segment of the envelope, if it has any. -/
theorem Envelope.segAt_mem {E : Envelope} (h : E.segs ≠ []) (k : Nat) : E.segAt k ∈ E.segs := by
  have := List.length_pos_iff.2 h
  rw [Envelope.segAt, List.getElem?_eq_getElem (by omega)]
  exact List.getElem_mem _

/-- The threshold of a 16-bit duration does not wrap (`41_envelope.md` R174). -/
theorem toNat_envThreshold (dur : BitVec 16) (period : Word) :
    (envThreshold dur period).toNat = dur.toNat * period.toNat / 65536 := by
  have product : dur.toNat * period.toNat ≤ 65535 * 4294967295 :=
    Nat.mul_le_mul (by have := dur.isLt; omega) (by have := period.isLt; omega)
  rw [envThreshold, BitVec.toNat_ofNat, Nat.shiftRight_eq_div_pow]
  omega

/-- The delta between two scaled values, before it is put in a register (`41_envelope.md` R175). -/
theorem envDelta_toLevel (target level : Word) (thr ticks : Word) :
    envDelta (toLevel target) (toLevel level) thr ticks = BitVec.ofInt 64 (if ticks.toNat < thr.toNat then
      Int.tdiv (target.toInt * 32768 - level.toInt * 32768) ((thr.toNat : Int) - ticks.toNat) else 0) := by
  rw [envDelta]
  split
  next later => rw [toInt_toLevel, toInt_toLevel, tdiv, Int.ofNat_sub (by omega)]
  next => rfl

/-- A threshold that has passed stops the ramp. -/
theorem envDelta_of_passed (target level : Wide) {thr ticks : Word} (h : thr.toNat ≤ ticks.toNat) :
    envDelta target level thr ticks = 0 := if_neg (Nat.not_lt.2 h)

/-- The ramp never passes its target (`41_envelope.md` R175). -/
theorem envDelta_mul_bounds (target level : Word) {thr ticks : Word} {n : Nat} (h : ticks.toNat + n < thr.toNat) :
    min level.toInt target.toInt * 32768 ≤
        level.toInt * 32768 + n * (envDelta (toLevel target) (toLevel level) thr ticks).toInt ∧
      level.toInt * 32768 + n * (envDelta (toLevel target) (toLevel level) thr ticks).toInt ≤
        max level.toInt target.toInt * 32768 := by
  have := level.le_toInt
  have := level.toInt_lt
  have := target.le_toInt
  have := target.toInt_lt
  have bounds := tdiv_mul_bounds (target.toInt * 32768 - level.toInt * 32768) (thr.toNat - ticks.toNat) (by omega)
  have whole := bounds 1 (by omega) (by omega)
  have unwrapped : (envDelta (toLevel target) (toLevel level) thr ticks).toInt =
      tdiv (target.toInt * 32768 - level.toInt * 32768) (thr.toNat - ticks.toNat) := by
    rw [envDelta_toLevel, if_pos (by omega), BitVec.toInt_ofInt, Int.bmod_eq_of_le] <;> rw [← tdiv] <;> omega
  have ramp := bounds n (by omega) (by omega)
  rw [unwrapped, Int.mul_comm (n : Int)]
  omega

/-! ### The advance -/

/-- An advance loads the peak of the segment that ends (`41_envelope.md` R176). -/
theorem envAdvance_level (E : Envelope) (r : EnvRegs) (period : Word) :
    (envAdvance E r period).level = toLevel (E.segAt r.idx.toNat).peak := by rw [envAdvance]

theorem envAdvance_ticks (E : Envelope) (r : EnvRegs) (period : Word) : (envAdvance E r period).ticks = r.ticks := by
  rw [envAdvance]

/-- The ramp after an advance runs toward the peak at the next index (`41_envelope.md` R175). -/
theorem envAdvance_delta (E : Envelope) (r : EnvRegs) (period : Word) :
    (envAdvance E r period).delta = envDelta (toLevel (E.segAt (min (r.idx.toNat + 1) (E.segs.length - 1))).peak)
      (envAdvance E r period).level (envAdvance E r period).thr (envAdvance E r period).ticks := by rw [envAdvance]

/-- The advance in integers, from an index that names a segment (`41_envelope.md` R173 to R175). -/
theorem envAdvance_eq {E : Envelope} {r : EnvRegs} {period : Word} (inside : r.idx.toNat < E.segs.length) :
    let next := min (r.idx.toNat + 1) (E.segs.length - 1)
    let current := (E.segs[r.idx.toNat]?).getD ⟨0, 0⟩
    let coming := (E.segs[next]?).getD ⟨0, 0⟩
    let thr := coming.dur.toNat * period.toNat / 65536
    envAdvance E r period = ⟨toLevel current.peak, BitVec.ofInt 64 (if r.ticks.toNat < thr then
      Int.tdiv (coming.peak.toInt * 32768 - current.peak.toInt * 32768) ((thr : Int) - r.ticks.toNat) else 0),
      BitVec.ofNat 32 thr, BitVec.ofNat 8 next, r.ticks⟩ := by
  intro next current coming thr
  have ahead : E.segAt next = coming := Envelope.segAt_of_lt (by omega)
  have threshold : (envThreshold coming.dur period).toNat = thr := toNat_envThreshold _ _
  rw [envAdvance, Envelope.segAt_of_lt inside, ahead, envDelta_toLevel, threshold, ← threshold, BitVec.ofNat_toNat,
    BitVec.setWidth_eq]

/-! ### The operations -/

theorem exec_envReset (s : State) :
    exec .envReset s = .next (s.setEnvRegs s.io.role (envResetRegs (s.voice.envelope s.io.role))) := rfl

theorem exec_envEval (s : State) : exec .envEval s =
    .next ((s.setEnvRegs s.io.role
      (envEvalRegs (s.voice.envelope s.io.role) (s.env.get s.io.role) s.io.period).2).setIo
        { s.io with value := (envEvalRegs (s.voice.envelope s.io.role) (s.env.get s.io.role) s.io.period).1 }) := rfl

@[simp] theorem State.setEnvRegs_get (s : State) (e : Role) : s.setEnvRegs e (s.env.get e) = s := by
  rw [State.setEnvRegs, EnvBank.set_get]
  rfl

/-- Settles O7: a level is the scaled start. -/
theorem envReset : Obligations.EnvReset := by
  intro s
  rw [exec_envReset, envResetRegs, toLevel_eq_ofInt]

/-- Settles O8: by the three things that an evaluation can do. -/
theorem envEval : Obligations.EnvEval := by
  intro s E r peak next thr delta
  refine ⟨fun empty => ?_, fun segments before => ?_, fun inside _ passed => ?_⟩
  · rw [exec_envEval, envEvalRegs_empty _ _ _ empty, State.setEnvRegs_get]
  · rw [exec_envEval, envEvalRegs_hold _ _ _ segments before]
  · have segments : E.segs ≠ [] := List.ne_nil_of_length_pos (by omega)
    rw [exec_envEval, envEvalRegs_advance _ _ _ segments passed, envAdvance_eq inside, levelValue_toLevel,
      toLevel_eq_ofInt, ← BitVec.ofInt_add, BitVec.ofInt_toInt]

/-! ### The bounds of the values -/

/-- Every level of the ramp before its threshold lies between the scaled bounds (`41_envelope.md` R179). -/
def EnvRegs.Within (lo hi : Int) (r : EnvRegs) : Prop :=
  ∀ n : Nat, r.ticks.toNat + n < r.thr.toNat →
    lo * 32768 ≤ r.level.toInt + n * r.delta.toInt ∧ r.level.toInt + n * r.delta.toInt ≤ hi * 32768

section
variable {lo hi : Int} {E : Envelope} {r : EnvRegs} {period : Word}

/-- A ramp that stands still stays where it is. -/
theorem EnvRegs.within_of_still (low : lo * 32768 ≤ r.level.toInt) (high : r.level.toInt ≤ hi * 32768)
    (still : r.delta = 0) : r.Within lo hi := by
  intro n _
  rw [still, BitVec.ofNat_eq_ofNat, BitVec.toInt_zero, Int.mul_zero, Int.add_zero]
  exact ⟨low, high⟩

theorem envResetRegs_within (low : lo ≤ E.start.toInt) (high : E.start.toInt ≤ hi) :
    (envResetRegs E).Within lo hi := by
  have level : (envResetRegs E).level.toInt = E.start.toInt * 32768 := toInt_toLevel E.start
  exact EnvRegs.within_of_still (by omega) (by omega) rfl

/-- A level of the ramp: its value is between the bounds. -/
theorem EnvRegs.Within.value (h : r.Within lo hi) (small : -2147483648 ≤ lo) (large : hi ≤ 2147483647)
    (before : r.ticks.toNat < r.thr.toNat) :
    lo ≤ ((r.level.sshiftRight 15).setWidth 32 : Word).toInt ∧
      ((r.level.sshiftRight 15).setWidth 32 : Word).toInt ≤ hi := by
  obtain ⟨low, high⟩ := h 0 before
  rw [toInt_levelValue (by omega) (by omega)]
  omega

/-- The next level of the ramp does not wrap, and the levels from it on are levels of the ramp. -/
theorem EnvRegs.Within.hold (h : r.Within lo hi) (small : -2147483648 ≤ lo) (large : hi ≤ 2147483647)
    (before : r.ticks.toNat < r.thr.toNat) :
    EnvRegs.Within lo hi { r with level := r.level + r.delta, ticks := r.ticks + 1 } := by
  have tick : (r.ticks + 1).toNat = r.ticks.toNat + 1 := by bv_omega
  intro n (later : (r.ticks + 1).toNat + n < r.thr.toNat)
  obtain ⟨low, high⟩ := h (n + 1) (by omega)
  obtain ⟨low', high'⟩ := h 1 (by omega)
  have sum : (r.level + r.delta).toInt = r.level.toInt + r.delta.toInt := by
    rw [BitVec.toInt_add, Int.bmod_eq_of_le] <;> omega
  have split : r.level.toInt + r.delta.toInt + n * r.delta.toInt = r.level.toInt + (n + 1 : Nat) * r.delta.toInt := by
    push_cast
    ring
  rw [sum, split]
  exact ⟨low, high⟩

/-- The ramp that an advance begins, its first level not taken yet: it runs from one peak toward another. -/
theorem envAdvance_within (segments : E.segs ≠ []) (peaks : ∀ g ∈ E.segs, lo ≤ g.peak.toInt ∧ g.peak.toInt ≤ hi) :
    (envAdvance E r period).Within lo hi := by
  intro n later
  obtain ⟨low, high⟩ := peaks _ (Envelope.segAt_mem segments r.idx.toNat)
  obtain ⟨low', high'⟩ := peaks _ (Envelope.segAt_mem segments (min (r.idx.toNat + 1) (E.segs.length - 1)))
  have bounds := envDelta_mul_bounds (E.segAt (min (r.idx.toNat + 1) (E.segs.length - 1))).peak
    (E.segAt r.idx.toNat).peak later
  rw [envAdvance_delta, envAdvance_level, toInt_toLevel]
  omega

/-- One evaluation keeps the ramp within the bounds, and its value is within them. -/
theorem envEvalRegs_within (small : -2147483648 ≤ lo) (large : hi ≤ 2147483647) (segments : E.segs ≠ [])
    (peaks : ∀ g ∈ E.segs, lo ≤ g.peak.toInt ∧ g.peak.toInt ≤ hi) (h : r.Within lo hi) :
    (envEvalRegs E r period).2.Within lo hi ∧
      lo ≤ (envEvalRegs E r period).1.toInt ∧ (envEvalRegs E r period).1.toInt ≤ hi := by
  rcases Nat.lt_or_ge r.ticks.toNat r.thr.toNat with before | passed
  · rw [envEvalRegs_hold E r period segments before]
    exact ⟨h.hold small large before, h.value small large before⟩
  · have value := peaks _ (Envelope.segAt_mem segments r.idx.toNat)
    have level := envAdvance_level E r period
    have delta := envAdvance_delta E r period
    have ramp : (envAdvance E r period).Within lo hi := envAdvance_within segments peaks
    rw [envEvalRegs_advance E r period segments passed, ← envAdvance_ticks E r period]
    generalize envAdvance E r period = q at level delta ramp ⊢
    refine ⟨?_, by rwa [level, levelValue_toLevel]⟩
    rcases Nat.lt_or_ge q.ticks.toNat q.thr.toNat with before | passed
    · exact ramp.hold small large before
    · have still : q.delta = 0 := delta.trans (envDelta_of_passed _ _ passed)
      have stays : (q.level + q.delta).toInt = (E.segAt r.idx.toNat).peak.toInt * 32768 := by
        rw [still, level, ← toInt_toLevel]
        exact congrArg BitVec.toInt (BitVec.add_zero _)
      exact EnvRegs.within_of_still (by rw [stays]; omega) (by rw [stays]; omega) still

end

/-- The latched evaluator: its envelope has segments with peaks between the bounds, and its ramp is within them. -/
structure State.Ramping (lo hi : Int) (s : State) : Prop where
  segs : (s.voice.envelope s.io.role).segs ≠ []
  peaks : ∀ g ∈ (s.voice.envelope s.io.role).segs, lo ≤ g.peak.toInt ∧ g.peak.toInt ≤ hi
  regs : (s.env.get s.io.role).Within lo hi

/-- An evaluation of the latched evaluator. -/
theorem State.Ramping.exec_envEval {lo hi : Int} {s : State} (h : s.Ramping lo hi) (small : -2147483648 ≤ lo)
    (large : hi ≤ 2147483647) :
    ∃ t, exec .envEval s = .next t ∧ t.Ramping lo hi ∧ lo ≤ t.io.value.toInt ∧ t.io.value.toInt ≤ hi := by
  obtain ⟨segs, peaks, regs⟩ := h
  obtain ⟨kept, value⟩ := envEvalRegs_within (period := s.io.period) small large segs peaks regs
  refine ⟨_, Machine.exec_envEval s, ⟨segs, peaks, ?_⟩, value⟩
  simpa using kept

/-- Any number of evaluations of the latched evaluator, one at least. -/
theorem State.Ramping.execTimes_envEval {lo hi : Int} {s : State} (h : s.Ramping lo hi) (small : -2147483648 ≤ lo)
    (large : hi ≤ 2147483647) (count : Nat) :
    ∃ t, execTimes .envEval (count + 1) s = .next t ∧ lo ≤ t.io.value.toInt ∧ t.io.value.toInt ≤ hi := by
  induction count generalizing s with
  | zero =>
    obtain ⟨u, only, -, value⟩ := h.exec_envEval small large
    exact ⟨u, by rw [execTimes, only]; rfl, value⟩
  | succ count ih =>
    obtain ⟨u, first, kept, -⟩ := h.exec_envEval small large
    obtain ⟨t, rest, value⟩ := ih kept
    exact ⟨t, by rw [execTimes, first]; exact rest, value⟩

/-- A reset of the latched evaluator begins a ramp at the start. -/
theorem State.ramping_of_reset {lo hi : Int} {s : State} (segs : (s.voice.envelope s.io.role).segs ≠ [])
    (low : lo ≤ (s.voice.envelope s.io.role).start.toInt) (high : (s.voice.envelope s.io.role).start.toInt ≤ hi)
    (peaks : ∀ g ∈ (s.voice.envelope s.io.role).segs, lo ≤ g.peak.toInt ∧ g.peak.toInt ≤ hi) :
    (s.setEnvRegs s.io.role (envResetRegs (s.voice.envelope s.io.role))).Ramping lo hi := by
  refine ⟨segs, peaks, ?_⟩
  simpa using envResetRegs_within low high

/-- Settles O9: by the ramp that stays within the bounds, which no level leaves before the next advance. Bounds beyond
the `s32` range are first cut to it, so that no level wraps. -/
theorem envelopeBounds : Obligations.EnvelopeBounds := by
  intro s lo hi calls E segments low high peaks positive _
  have cut (x : Word) (bounds : lo ≤ x.toInt ∧ x.toInt ≤ hi) :
      max lo (-2147483648) ≤ x.toInt ∧ x.toInt ≤ min hi 2147483647 := by
    have := x.le_toInt
    have := x.toInt_lt
    omega
  have start := State.ramping_of_reset segments (cut _ ⟨low, high⟩).1 (cut _ ⟨low, high⟩).2
    (fun g member => cut _ (peaks g member))
  obtain ⟨more, rfl⟩ : ∃ more, calls = more + 1 := ⟨calls - 1, by omega⟩
  obtain ⟨t, run, value⟩ := start.execTimes_envEval (by omega) (by omega) more
  refine ⟨t, ?_, by omega, by omega⟩
  rw [exec_envReset, andThen, run]

end Sys2Proof.Machine
end

section
/-! The generators in integers, and the low-frequency oscillators (`42_oscillator_lfo.md` R190 to R200). -/

namespace Sys2Proof.Machine

/-! ### Generators -/

/-- The mask is the remainder by one cycle (`42_oscillator_lfo.md` R192). -/
theorem maskedPhase_eq_mod (phase : Word) : maskedPhase phase = phase.toNat % 32768 := by
  rw [maskedPhase, BitVec.toNat_and]
  exact Nat.and_two_pow_sub_one_eq_mod phase.toNat 15

/-- The arithmetic shift by 14 is the floor of a division (`00_scope.md` R11). -/
theorem asr_14_eq_ofInt (x : Word) : asr x 14 = BitVec.ofInt 32 (x.toInt / 16384) := by
  rw [← BitVec.ofInt_toInt (x := asr x 14), asr_toInt]
  norm_num

/-- The product of a table value and an amplitude wraps (`00_scope.md` R10). -/
theorem wrap32_mul_word (x : Int) (a : Word) : wrap32 x * a = BitVec.ofInt 32 (x * a.toInt) := by
  rw [wrap32, BitVec.ofInt_mul, BitVec.ofInt_toInt]

theorem genSquare_eq (amp phase : Word) : genSquare amp phase =
    BitVec.ofInt 32 (if phase.toNat % 32768 < 8192 then amp.toInt else -amp.toInt) := by
  rw [genSquare, maskedPhase_eq_mod, Config.squareSplit]
  split
  · rw [BitVec.ofInt_toInt]
  · rw [BitVec.ofInt_neg, BitVec.ofInt_toInt]

theorem genSine_eq (P : Params) (amp phase : Word) : genSine P amp phase =
    BitVec.ofInt 32 ((BitVec.ofInt 32 (P.sine (phase.toNat % 32768) * amp.toInt)).toInt / 16384) := by
  rw [genSine, asr_14_eq_ofInt, wrap32_mul_word, maskedPhase_eq_mod]

theorem genSaw_eq (amp phase : Word) : genSaw amp phase = BitVec.ofInt 32
    ((BitVec.ofInt 32 (((phase.toNat % 32768 : Nat) : Int) * amp.toInt)).toInt / 16384 - amp.toInt) := by
  have ramp : BitVec.ofNat 32 (maskedPhase phase) = wrap32 (maskedPhase phase) := (BitVec.ofInt_natCast _ _).symm
  rw [genSaw, asr_14_eq_ofInt, ramp, wrap32_mul_word, maskedPhase_eq_mod, Int.sub_eq_add_neg, BitVec.ofInt_add,
    BitVec.ofInt_neg, BitVec.ofInt_toInt, ← BitVec.sub_eq_add_neg]

theorem genNoise_eq (P : Params) (amp phase : Word) : genNoise P amp phase =
    BitVec.ofInt 32 (P.noise (phase.toNat % 32768 / 2607) * amp.toInt) := by
  rw [genNoise, wrap32_mul_word, maskedPhase_eq_mod, Config.noiseDiv]

/-- Settles O10: each generator latches its value. -/
theorem generators : Obligations.Generators := by
  intro s p a
  refine ⟨rfl, ?_, ?_, ?_, ?_⟩
  · exact congrArg (Host.Outcome.next ∘ s.latchSample) (genSquare_eq _ _)
  · exact congrArg (Host.Outcome.next ∘ s.latchSample) (genSine_eq _ _ _)
  · exact congrArg (Host.Outcome.next ∘ s.latchSample) (genSaw_eq _ _)
  · exact congrArg (Host.Outcome.next ∘ s.latchSample) (genNoise_eq _ _ _)

/-! ### Low-frequency oscillators -/

section
variable {s : State}

theorem exec_lfoVib_absent (h : s.voice.pitchLfo.present = false) : exec .lfoVib s = .next s := by
  rw [exec, execLfoVib, h]
  rfl

theorem exec_lfoVib_present (h : s.voice.pitchLfo.present = true) : exec .lfoVib s =
    .next ((s.lfoVib Config.params s.io.freq).2.setIo
      { s.io with freq := (s.lfoVib Config.params s.io.freq).1 }) := by
  rw [exec, execLfoVib, h]
  rfl

theorem exec_lfoTrem_absent (h : s.voice.amplitudeLfo.present = false) : exec .lfoTrem s = .next s := by
  rw [exec, execLfoTrem, h]
  rfl

theorem exec_lfoTrem_present (h : s.voice.amplitudeLfo.present = true) : exec .lfoTrem s =
    .next ((s.lfoTrem Config.params s.io.ampl).2.setIo
      { s.io with ampl := (s.lfoTrem Config.params s.io.ampl).1 }) := by
  rw [exec, execLfoTrem, h]
  rfl

end

/-- Settles O12: by the two cases of each operation. -/
theorem lowFrequencyOscillators : Obligations.LowFrequencyOscillators := by
  intro s
  exact ⟨exec_lfoVib_absent, exec_lfoVib_present, exec_lfoTrem_absent, exec_lfoTrem_present⟩

/-! ### An oscillator of depth 0 -/

/-- Every waveform of amplitude 0 is silent. -/
theorem oscGen_zero (P : Params) (phase : Word) (w : Waveform) : oscGen P 0 phase w = 0 := by
  cases w with
  | off => rfl
  | square => simp [oscGen, genSquare]
  | sine => simp [oscGen, genSine, asr]
  | saw => simp [oscGen, genSaw, asr]
  | noise => simp [oscGen, genNoise]

/-- A modulation of 0 leaves an amplitude whose scaled value does not wrap (`42_oscillator_lfo.md` R200). -/
theorem tremolo_zero {a : Word} (low : -65536 ≤ a.toInt) (high : a.toInt < 65536) : tremolo a 0 = a := by
  have scaled : (a * (0 + 32768)).toInt = 32768 * a.toInt := by
    rw [← toInt_wrap32_mul (x := 32768) (by omega) (by omega), BitVec.mul_comm]
    rfl
  apply BitVec.eq_of_toInt_eq
  rw [tremolo, asr_toInt, scaled]
  omega

/-- Settles O13: without segments the depth is its start, and depth 0 silences every waveform. -/
theorem zeroDepth : Obligations.ZeroDepth := by
  intro s
  refine ⟨fun segs start => ?_, fun segs start low high => ?_⟩
  · cases present : s.voice.pitchLfo.present with
    | false => exact ⟨s, exec_lfoVib_absent present, rfl⟩
    | true =>
      have depth : (envEvalRegs s.voice.pitchLfo.second s.env.vibd s.vs.count).1 = 0 := by
        rw [envEvalRegs_empty _ _ _ segs, start]
      refine ⟨_, exec_lfoVib_present present, ?_⟩
      show s.io.freq + asr (oscGen _ (envEvalRegs s.voice.pitchLfo.second s.env.vibd s.vs.count).1 _ _) 1 = _
      rw [depth, oscGen_zero]
      simp [asr]
  · cases present : s.voice.amplitudeLfo.present with
    | false => exact ⟨s, exec_lfoTrem_absent present, rfl⟩
    | true =>
      have depth : (envEvalRegs s.voice.amplitudeLfo.second s.env.trmd s.vs.count).1 = 0 := by
        rw [envEvalRegs_empty _ _ _ segs, start]
      refine ⟨_, exec_lfoTrem_present present, ?_⟩
      show tremolo s.io.ampl (asr (oscGen _ (envEvalRegs s.voice.amplitudeLfo.second s.env.trmd s.vs.count).1 _ _) 1) = _
      rw [depth, oscGen_zero]
      exact tremolo_zero low high

end Sys2Proof.Machine
end

section
/-! The partials: one partial, and one sample of all of them (`42_oscillator_lfo.md` R202, R204; `20_memory.md` R74). -/

namespace Sys2Proof.Machine

/-! ### One partial -/

section
variable (P : Params) (s : State) (i : Fin 10)

/-- The word of the voice buffer that partial `i` adds to (`20_memory.md` R74). -/
def State.partialPos : Nat := s.seq.n.toNat + (vget s.vs.delay i).toNat

/-- Partial `i` is in range: its word is one of the voice's samples. -/
abbrev State.reaches : Prop := s.partialPos i < s.vs.count.toNat

/-- What partial `i` adds, at amplitude `a`. -/
def State.partialSample (a : Word) : Word :=
  oscGen P (asr (a * vget s.vs.vol i) 15) (vget s.osc.phase i) s.voice.frequency.waveform

/-- The phase of partial `i` after it has sounded, at frequency `f`. -/
def State.partialPhase (f : Word) : Word :=
  vget s.osc.phase i + asr (f * vget s.vs.inc i) 16 + vget s.vs.base i

variable {P s i} {f a : Word}

theorem State.oscPartial_of_beyond (h : ¬ s.reaches i) : s.oscPartial P i f a = s := if_neg h

theorem State.oscPartial_of_reaches (h : s.reaches i) : s.oscPartial P i f a =
    (s.setVb (s.vb.add (s.partialPos i) (s.partialSample P i a))).setOsc
      { s.osc with phase := vset s.osc.phase i (s.partialPhase i f) } := if_pos h

/-- The word of a partial holds a value unless the partial is in range of a shorter buffer. -/
theorem State.partialValued_iff : s.partialValued i = true ↔ (s.reaches i → s.partialPos i < s.vb.words.length) := by
  show (decide (s.vs.count.toNat ≤ s.partialPos i) || decide (s.partialPos i < s.vb.words.length)) = true ↔ _
  rw [Bool.or_eq_true, decide_eq_true_eq, decide_eq_true_eq]
  omega

theorem exec_oscPartial_of_held (h : s.reaches i → s.partialPos i < s.vb.words.length) (at_i : s.seq.i = i) :
    exec .oscPartial s = .next (s.oscPartial Config.params i s.io.freq s.io.ampl) := by
  subst at_i
  rw [exec, execOscPartial, State.partialValued_iff.2 h, needVb_true]

end

/-- Settles O14: by the two cases of a partial, and the fault of a buffer that is too short. -/
theorem oscPartial : Obligations.OscPartial := by
  intro s i pos phase
  refine ⟨fun beyond => ?_, fun reach held => ?_, fun reach short => ?_⟩
  · have outside : ¬ s.reaches i := Nat.not_lt.2 beyond
    rw [exec_oscPartial_of_held (fun reach => absurd reach outside) rfl, State.oscPartial_of_beyond outside]
  · refine ⟨_, exec_oscPartial_of_held (fun _ => held) rfl, ?_⟩
    rw [State.oscPartial_of_reaches reach]
    exact ⟨rfl, rfl, Buffer.read_write_same _ _ held, fun j other => Buffer.read_write_other _ _ other,
      vget_vset_same _ _ _, fun j other => vget_vset_other _ _ other, rfl, rfl⟩
  · have unheld : s.partialValued i = false := by
      rw [← Bool.not_eq_true, State.partialValued_iff]
      exact fun held => absurd (held reach) (Nat.not_lt.2 short)
    rw [exec, execOscPartial, unheld]
    rfl

/-! ### Several partials, one after the other -/

/-- What the partials `l`, performed one after the other from `s`, leave: each in range has advanced its phase and
added to its word, and nothing else is changed but `SEQ.i`. -/
structure State.Sounded (P : Params) (s : State) (f a : Word) (l : List (Fin 10)) (t : State) : Prop where
  frame : t = ((s.setOsc t.osc).setVb t.vb).setSeq { s.seq with i := t.seq.i }
  phase : ∀ k, vget t.osc.phase k = if k ∈ l ∧ s.reaches k then s.partialPhase k f else vget s.osc.phase k
  vibPhase : t.osc.vibPhase = s.osc.vibPhase
  tremPhase : t.osc.tremPhase = s.osc.tremPhase
  array : t.vb.array = s.vb.array
  length : t.vb.words.length = s.vb.words.length
  term : ∀ j, t.vb.term j = (l.filter fun k => decide (s.reaches k ∧ s.partialPos k = j)).foldl
    (fun x k => x + s.partialSample P k a) (s.vb.term j)

section
variable {P : Params} {s t : State} {f a : Word} {l : List (Fin 10)} {i : Fin 10}

theorem State.Sounded.none (s : State) : s.Sounded P f a [] s where
  frame := rfl
  phase k := by simp
  vibPhase := rfl
  tremPhase := rfl
  array := rfl
  length := rfl
  term j := rfl

/-- Beyond the voice's samples no word is changed. -/
theorem State.Sounded.read_beyond (h : s.Sounded P f a l t) {j : Nat} (beyond : s.vs.count.toNat ≤ j) :
    t.vb.read j = s.vb.read j := by
  have silent : (l.filter fun k => decide (s.reaches k ∧ s.partialPos k = j)) = [] := by
    simp only [List.filter_eq_nil_iff, decide_eq_true_eq]
    rintro k - ⟨reach, rfl⟩
    exact absurd reach (Nat.not_lt.2 beyond)
  have term := h.term j
  rw [silent, List.foldl_nil] at term
  rcases Nat.lt_or_ge j s.vb.words.length with inside | outside
  · rw [Buffer.read_eq_term _ (h.length ▸ inside), Buffer.read_eq_term _ inside, term]
  · rw [Buffer.read, Buffer.read, List.getElem?_eq_none outside, List.getElem?_eq_none (h.length ▸ outside)]

theorem State.Sounded.vs (h : s.Sounded P f a l t) : t.vs = s.vs := (congrArg State.vs h.frame).trans rfl

theorem State.Sounded.partialPos (h : s.Sounded P f a l t) : (t.atI i).partialPos i = s.partialPos i := by
  have n : t.seq.n = s.seq.n := (congrArg (·.seq.n) h.frame).trans rfl
  simp only [State.partialPos, State.atI_vs, h.vs]
  exact congrArg (·.toNat + _) n

theorem State.Sounded.reaches_iff (h : s.Sounded P f a l t) : (t.atI i).reaches i ↔ s.reaches i := by
  rw [State.reaches, h.partialPos, State.atI_vs, h.vs]

theorem State.Sounded.phase_fresh (h : s.Sounded P f a l t) (fresh : i ∉ l) :
    vget t.osc.phase i = vget s.osc.phase i := by simp [h.phase, fresh]

theorem State.Sounded.partialSample (h : s.Sounded P f a l t) (fresh : i ∉ l) :
    (t.atI i).partialSample P i a = s.partialSample P i a := by
  have voice : (t.atI i).voice = s.voice := (congrArg State.voice h.frame).trans rfl
  simp only [State.partialSample, State.atI_vs, State.atI_osc, h.vs, h.phase_fresh fresh, voice]

theorem State.Sounded.partialPhase (h : s.Sounded P f a l t) (fresh : i ∉ l) :
    (t.atI i).partialPhase i f = s.partialPhase i f := by
  simp only [State.partialPhase, State.atI_vs, State.atI_osc, h.vs, h.phase_fresh fresh]

/-- One more partial, beyond the voice's samples: only `SEQ.i` moves. -/
theorem State.Sounded.next_beyond (h : s.Sounded P f a l t) (beyond : ¬ s.reaches i) :
    s.Sounded P f a (l ++ [i]) (t.atI i) where
  frame := (congrArg (·.atI i) h.frame).trans rfl
  phase k := by
    by_cases same : k = i
    · subst same
      simp [h.phase, beyond]
    · simp [same, h.phase]
  vibPhase := h.vibPhase
  tremPhase := h.tremPhase
  array := h.array
  length := h.length
  term j := by simp [beyond, h.term]

/-- One more partial, in range: its word gains its sample, and its phase moves. -/
theorem State.Sounded.next_reaches (h : s.Sounded P f a l t) (reach : s.reaches i)
    (held : s.partialPos i < s.vb.words.length) :
    s.Sounded P f a (l ++ [i]) (((t.atI i).setVb (t.vb.add (s.partialPos i) (s.partialSample P i a))).setOsc
      { t.osc with phase := vset t.osc.phase i (s.partialPhase i f) }) where
  frame := (congrArg (fun u : State => ((u.atI i).setVb (t.vb.add (s.partialPos i) (s.partialSample P i a))).setOsc
    { t.osc with phase := vset t.osc.phase i (s.partialPhase i f) }) h.frame).trans rfl
  phase k := by
    by_cases same : k = i
    · subst same
      simp [reach]
    · simp [same, h.phase, vget_vset_other]
  vibPhase := h.vibPhase
  tremPhase := h.tremPhase
  array := h.array
  length := by simp [h.length]
  term j := by
    rw [List.filter_append, List.foldl_append, ← h.term]
    by_cases same : s.partialPos i = j
    · subst same
      simpa [reach] using Buffer.term_add_same t.vb _ (h.length ▸ held)
    · simpa [same] using Buffer.term_add_other t.vb _ (Ne.symm same)

/-- One more partial, one that has not sounded yet. -/
theorem State.Sounded.next (h : s.Sounded P f a l t) (fresh : i ∉ l)
    (held : s.reaches i → s.partialPos i < s.vb.words.length) :
    s.Sounded P f a (l ++ [i]) ((t.atI i).oscPartial P i f a) := by
  by_cases reach : s.reaches i
  · rw [State.oscPartial_of_reaches (h.reaches_iff.2 reach), h.partialPos, h.partialSample fresh,
      h.partialPhase fresh]
    exact h.next_reaches reach (held reach)
  · rw [State.oscPartial_of_beyond (mt h.reaches_iff.1 reach)]
    exact h.next_beyond reach

/-- The loop over the partials of one sample (`42_oscillator_lfo.md` R204). -/
theorem State.sounded_foldl (once : l.Nodup) (held : ∀ i ∈ l, s.reaches i → s.partialPos i < s.vb.words.length) :
    s.Sounded P f a l (l.foldl (fun t i => (t.atI i).oscPartial P i f a) s) := by
  induction l using List.reverseRecOn with
  | nil => exact .none s
  | append_singleton l i ih =>
    obtain ⟨fresh, rest⟩ : i ∉ l ∧ l.Nodup := List.nodup_cons.1 (List.nodup_append_comm.1 once)
    rw [List.foldl_append]
    exact (ih rest fun k member => held k (by simp [member])).next fresh (held i (by simp))

end

/-! ### The evaluators of one sample -/

section
variable (P : Params) (s : State)

/-- The frequency that the partials of one sample get. -/
def State.sampledFreq : Word :=
  let f := (envEvalRegs s.voice.frequency s.env.freq s.vs.count).1
  if s.voice.pitchLfo.present then
    f + asr (oscGen P (envEvalRegs s.voice.pitchLfo.second s.env.vibd s.vs.count).1 s.osc.vibPhase
      s.voice.pitchLfo.first.waveform) 1
  else f

/-- The amplitude that the partials of one sample get. -/
def State.sampledAmpl : Word :=
  let a := (envEvalRegs s.voice.amplitude s.env.amp s.vs.count).1
  if s.voice.amplitudeLfo.present then
    tremolo a (asr (oscGen P (envEvalRegs s.voice.amplitudeLfo.second s.env.trmd s.vs.count).1 s.osc.tremPhase
      s.voice.amplitudeLfo.first.waveform) 1)
  else a

/-- The state of one sample when frequency, amplitude and vibrato have been evaluated. -/
def State.beforeTremolo : State :=
  let vib := s.voice.pitchLfo.present
  let rate := envEvalRegs s.voice.pitchLfo.first s.env.vibr s.vs.count
  let depth := envEvalRegs s.voice.pitchLfo.second s.env.vibd s.vs.count
  (s.setEnv { s.env with
    freq := (envEvalRegs s.voice.frequency s.env.freq s.vs.count).2
    amp := (envEvalRegs s.voice.amplitude s.env.amp s.vs.count).2
    vibr := if vib then rate.2 else s.env.vibr
    vibd := if vib then depth.2 else s.env.vibd }).setOsc { s.osc with
      vibPhase := if vib then lfoAdvance s.osc.vibPhase s.vs.vibBase rate.1 s.vs.vibStep else s.osc.vibPhase }

/-- The state of one sample before its partials: the tremolo has been evaluated as well. -/
def State.beforePartials : State :=
  let trem := s.voice.amplitudeLfo.present
  let rate := envEvalRegs s.voice.amplitudeLfo.first s.env.trmr s.vs.count
  let depth := envEvalRegs s.voice.amplitudeLfo.second s.env.trmd s.vs.count
  (s.beforeTremolo.setEnv { s.beforeTremolo.env with
    trmr := if trem then rate.2 else s.env.trmr
    trmd := if trem then depth.2 else s.env.trmd }).setOsc { s.beforeTremolo.osc with
      tremPhase := if trem then lfoAdvance s.osc.tremPhase s.vs.tremBase rate.1 s.vs.tremStep
        else s.osc.tremPhase }

theorem State.lfoVib_sampled :
    (if s.voice.pitchLfo.present then
      ((s.envEval .freq s.vs.count).2.envEval .amp s.vs.count).2.lfoVib P (s.envEval .freq s.vs.count).1
    else ((s.envEval .freq s.vs.count).1, ((s.envEval .freq s.vs.count).2.envEval .amp s.vs.count).2)) =
      (s.sampledFreq P, s.beforeTremolo) := by
  unfold State.sampledFreq State.beforeTremolo
  cases s.voice.pitchLfo.present <;> rfl

theorem State.lfoTrem_sampled :
    (if s.voice.amplitudeLfo.present then
      s.beforeTremolo.lfoTrem P ((s.envEval .freq s.vs.count).2.envEval .amp s.vs.count).1
    else (((s.envEval .freq s.vs.count).2.envEval .amp s.vs.count).1, s.beforeTremolo)) =
      (s.sampledAmpl P, s.beforePartials) := by
  unfold State.sampledAmpl State.beforePartials
  cases s.voice.amplitudeLfo.present <;> rfl

theorem State.oscSample_eq : s.oscSample P = s.partialIndices.foldl
    (fun t i => (t.atI i).oscPartial P i (s.sampledFreq P) (s.sampledAmpl P)) s.beforePartials := by
  simp only [State.oscSample, State.lfoVib_sampled, State.lfoTrem_sampled]

end

/-! ### One sample -/

/-- The first partials are those of low index. -/
theorem take_tenIndices (count : Nat) : tenIndices.take count = tenIndices.filter fun i => decide (i.val < count) := by
  rcases Nat.lt_or_ge count 10 with few | all
  · have each : ∀ count : Fin 10, tenIndices.take count = tenIndices.filter fun i => decide (i.val < count.val) := by
      decide
    exact each ⟨count, few⟩
  · rw [List.take_of_length_le all, List.filter_eq_self.2 fun i _ => by simpa using by omega]

section
variable {s : State}

theorem State.partialIndices_eq (s : State) :
    s.partialIndices = tenIndices.filter fun i => decide (i.val < s.voice.partials.length) := take_tenIndices _

theorem State.mem_partialIndices {i : Fin 10} : i ∈ s.partialIndices ↔ i.val < s.voice.partials.length := by
  have all : ∀ i : Fin 10, i ∈ tenIndices := by decide
  simp [State.partialIndices_eq, all]

theorem State.nodup_partialIndices (s : State) : s.partialIndices.Nodup := by
  rw [State.partialIndices_eq]
  exact List.Nodup.filter _ (by decide)

/-- The partials of the voice that are in range. -/
theorem State.partialIndices_filter (s : State) (q : Fin 10 → Prop) [DecidablePred q] :
    (s.partialIndices.filter fun i => decide (s.reaches i ∧ q i)) =
      tenIndices.filter fun i =>
        decide (i.val < s.voice.partials.length) && decide (s.reaches i) && decide (q i) := by
  rw [State.partialIndices_eq, List.filter_filter]
  congr 1
  funext i
  rw [Bool.decide_and, Bool.and_comm, Bool.and_assoc]

theorem exec_oscSample_of_held
    (h : ∀ i : Fin 10, i.val < s.voice.partials.length → s.reaches i → s.partialPos i < s.vb.words.length) :
    exec .oscSample s = .next (s.oscSample Config.params) := by
  have valued : s.partialIndices.all s.partialValued = true :=
    List.all_eq_true.2 fun i member => State.partialValued_iff.2 (h i (State.mem_partialIndices.1 member))
  rw [exec, execOscSample, valued, needVb_true]

theorem exec_oscSample_of_short {i : Fin 10} (has : i.val < s.voice.partials.length) (reach : s.reaches i)
    (short : s.vb.words.length ≤ s.partialPos i) : exec .oscSample s = .fault .vbNoValue := by
  have unheld : s.partialIndices.all s.partialValued = false := by
    rw [List.all_eq_false]
    refine ⟨i, State.mem_partialIndices.2 has, fun valued => ?_⟩
    exact absurd (State.partialValued_iff.1 valued reach) (Nat.not_lt.2 short)
  rw [exec, execOscSample, unheld]
  rfl

/-- One sample is the partials of the voice sounded after the evaluators. -/
theorem exec_oscSample_sounds
    (h : ∀ i : Fin 10, i.val < s.voice.partials.length → s.reaches i → s.partialPos i < s.vb.words.length) :
    ∃ t, exec .oscSample s = .next t ∧ s.beforePartials.Sounded Config.params (s.sampledFreq Config.params)
      (s.sampledAmpl Config.params) s.partialIndices t := by
  refine ⟨_, exec_oscSample_of_held h, ?_⟩
  rw [State.oscSample_eq]
  exact State.sounded_foldl s.nodup_partialIndices fun i member => h i (State.mem_partialIndices.1 member)

/-- The evaluators before the partials write the evaluator bank and the oscillator registers only. -/
theorem State.setOsc_beforePartials (s : State) (x : Osc) :
    s.beforePartials.setOsc x = (s.setEnv s.beforePartials.env).setOsc x := rfl

theorem State.Sounded.env {u t : State} {P : Params} {f a : Word} {l : List (Fin 10)} (h : u.Sounded P f a l t) :
    t.env = u.env := (congrArg State.env h.frame).trans rfl

end

/-- Settles O15: by the loop over the partials, from the state that the evaluators leave. -/
theorem oscSample : Obligations.OscSample := by
  intro s V n f0 a0 vr vd tr td vib trem mod f a live
  have live_iff (i : Fin 10) : live i = true ↔ i.val < s.voice.partials.length ∧ s.reaches i := by
    simp only [live, Bool.and_eq_true, decide_eq_true_eq]
    rfl
  refine ⟨fun held => ?_, fun i alive short => ?_⟩
  · have words (i : Fin 10) (has : i.val < s.voice.partials.length) (reach : s.reaches i) :
        s.partialPos i < s.vb.words.length := held i ((live_iff i).2 ⟨has, reach⟩)
    obtain ⟨t, run, sounded⟩ := exec_oscSample_sounds words
    refine ⟨t, run, ?_, sounded.env, fun i => ?_, sounded.vibPhase, sounded.tremPhase, sounded.array, sounded.length,
      fun j => sounded.read_beyond, fun j _ => ?_⟩
    · have frame := sounded.frame
      rw [State.setOsc_beforePartials, ← sounded.env] at frame
      exact frame
    · have sounds : i ∈ s.partialIndices ∧ s.reaches i ↔ live i = true := by
        rw [State.mem_partialIndices, live_iff]
      exact (sounded.phase i).trans (if_congr sounds rfl rfl)
    · exact (sounded.term j).trans (congrArg (List.foldl _ _) (s.partialIndices_filter fun i => s.partialPos i = j))
  · obtain ⟨has, reach⟩ := (live_iff i).1 alive
    exact exec_oscSample_of_short has reach short

end Sys2Proof.Machine
end

section
/-! The setup of a voice (`43_voice_stages.md` R230 to R232; `42_oscillator_lfo.md` R201, R203): its formulas as
truncated exact rationals, and its three ends. -/

namespace Sys2Proof.Machine

/-! ### Truncated exact rationals -/

/-- The truncation of a quotient is the division toward zero (`00_scope.md` R11, R15), whether the pair is reduced or
not. -/
theorem truncRat_div (a : Int) (b : Nat) : truncRat ((a : Rat) / (b : Rat)) = tdiv a b := by
  rcases Nat.eq_zero_or_pos b with rfl | positive
  · simp [truncRat, tdiv]
  · obtain ⟨c, num, den⟩ := Rat.exists_eq_mul_div_num_and_eq_mul_div_den a (d := b) (by omega)
    rw [Int.cast_natCast] at num den
    have reduced : 0 < c := by
      refine pos_of_mul_pos_left (b := (((a : Rat) / b).den : Int)) ?_ (Int.natCast_nonneg _)
      omega
    rw [truncRat, tdiv, tdiv, ← Int.mul_tdiv_mul_of_pos _ _ reduced, ← num, ← den]

/-- A delay in samples (`42_oscillator_lfo.md` R203, `43_voice_stages.md` R246). -/
theorem delaySamples_eq (ms : BitVec 15) (sps : Ratio) :
    delaySamples ms sps = wrapTrunc ((ms.toNat : Rat) * ratOf sps) := by
  have quotient : (ms.toNat : Rat) * ratOf sps = ((ms.toNat * sps.num : Nat) : Int) / (sps.den : Rat) := by
    rw [ratOf]
    push_cast
    ring
  rw [quotient, wrapTrunc, truncRat_div, tdiv, ← Int.ofNat_tdiv, wrap32, BitVec.ofInt_natCast, delaySamples]

/-- A phase rate (`42_oscillator_lfo.md` R201, R203). -/
theorem phaseRate_eq (P : Params) (x : Int) (ratio sps : Ratio) :
    phaseRate P x ratio sps = wrapTrunc ((x : Rat) * ratOf P.phaseScale * ratOf ratio / ratOf sps) := by
  have quotient : (x : Rat) * ratOf P.phaseScale * ratOf ratio / ratOf sps =
      ((x * P.phaseScale.num * ratio.num * sps.den : Int) : Rat)
        / ((P.phaseScale.den * ratio.den * sps.num : Nat) : Rat) := by
    push_cast
    simp only [ratOf, div_eq_mul_inv, mul_inv, inv_inv]
    ring
  rw [quotient, wrapTrunc, truncRat_div, phaseRate, truncDiv]

/-- The phase rate of a low-frequency oscillator, which has no pitch ratio. -/
theorem phaseRate_unit (P : Params) (x : Int) (sps : Ratio) :
    phaseRate P x unitRatio sps = wrapTrunc ((x : Rat) * ratOf P.phaseScale / ratOf sps) := by
  have unit : ratOf unitRatio = 1 := by norm_num [ratOf, unitRatio]
  rw [phaseRate_eq, unit, mul_one]

/-- An element that the list has is written over the register. -/
theorem vget_overlay {α : Type} {n : Nat} {v : Vector α n} {l : List α} {i : Fin n} {x : α}
    (h : l[i.val]? = some x) : vget (overlay v l) i = x := by
  simp [vget, overlay, h]

/-- The register of an entry that the voice has, computed from the entry. -/
theorem vget_overlay_map {α β : Type} {n : Nat} {v : Vector β n} {l : List α} {i : Fin n} {x : α} (f : α → β)
    (h : l[i.val]? = some x) : vget (overlay v (l.map f)) i = f x :=
  vget_overlay (by rw [List.getElem?_map, h]; rfl)

/-! ### The length of a voice -/

theorem minDuration_pos : 0 < Config.params.minDuration := Nat.succ_pos _

theorem ms2s_eq (x : Nat) : ms2s x = x * 22050 / 1000 := rfl

/-- `VS.N` does not wrap (`43_voice_stages.md` R230). -/
theorem toNat_voiceCount (duration : BitVec 16) :
    (BitVec.ofNat 32 (ms2s duration.toNat)).toNat = duration.toNat * 22050 / 1000 := by
  have := duration.isLt
  rw [BitVec.toNat_ofNat, ms2s_eq]
  omega

/-- A voice that is not short has a sample at least. -/
theorem voiceCount_ne_zero {duration : BitVec 16} (long : ¬ duration.toNat < Config.params.minDuration) :
    BitVec.ofNat 32 (ms2s duration.toNat) ≠ 0 := by
  intro none
  have count := toNat_voiceCount duration
  have := minDuration_pos
  rw [none, BitVec.ofNat_eq_ofNat, BitVec.toNat_zero] at count
  omega

/-! ### The three ends of the setup -/

/-- The evaluator bank after the setup: the evaluators of the records that are present, reset. -/
def State.setupEnv (s : State) : EnvBank :=
  let V := s.voice
  ⟨envResetRegs V.frequency, envResetRegs V.amplitude,
    if V.pitchLfo.present then envResetRegs V.pitchLfo.first else s.env.vibr,
    if V.pitchLfo.present then envResetRegs V.pitchLfo.second else s.env.vibd,
    if V.amplitudeLfo.present then envResetRegs V.amplitudeLfo.first else s.env.trmr,
    if V.amplitudeLfo.present then envResetRegs V.amplitudeLfo.second else s.env.trmd,
    s.env.gsil, s.env.gdur, s.env.cut⟩

theorem State.envReset_eq (s : State) (e : Role) :
    s.envReset e = s.setEnv (s.env.set e (envResetRegs (s.voice.envelope e))) := rfl

/-- A reset after others writes the same bank. -/
theorem State.envReset_setEnv (s : State) (b : EnvBank) (e : Role) :
    (s.setEnv b).envReset e = s.setEnv (b.set e (envResetRegs (s.voice.envelope e))) := rfl

theorem State.setupRest_eq (P : Params) (s : State) : s.setupRest P =
    ((s.setEnv s.setupEnv).setVs (setupRegs P s.voice s.vs)).setOsc ⟨Vector.replicate 10 0, 0, 0⟩ := by
  unfold State.setupRest State.setupEnv
  cases vib : s.voice.pitchLfo.present <;> cases trem : s.voice.amplitudeLfo.present <;>
    simp only [vib, trem, reduceIte, Bool.false_eq_true, s.envReset_eq .freq, State.envReset_setEnv, State.setEnv_vs,
      EnvBank.set, Voice.envelope]

/-- The state after `VOICE.SETUP` of a voice that is not short and whose buffer is supplied. -/
def State.afterSetup (P : Params) (s : State) : State :=
  let size := ms2s s.voice.duration.toNat
  ((((s.beforeVb.setPool (poolAfter P size s.pool)).setVb (acquired P size s.pool)).setEnv s.setupEnv).setVs
    (setupRegs P s.voice (setupLengths s.voice s.vs))).setOsc ⟨Vector.replicate 10 0, 0, 0⟩

section
variable {P : Params} {s : State}

theorem voiceSetup_of_short (short : s.voice.duration.toNat < P.minDuration) :
    voiceSetup P s = .ok ((), (s.atStage .setup).setVs { s.vs with count := 0 }) := by
  rw [voiceSetup_eq, if_pos short]

theorem voiceSetup_of_supplied (long : ¬ s.voice.duration.toNat < P.minDuration)
    (supplied : P.supplies (ms2s s.voice.duration.toNat) = true) : voiceSetup P s = .ok ((), s.afterSetup P) := by
  rw [voiceSetup_eq, if_neg long, if_pos supplied, State.setupRest_eq]
  rfl

theorem voiceSetup_of_unsupplied (long : ¬ s.voice.duration.toNat < P.minDuration)
    (unsupplied : P.supplies (ms2s s.voice.duration.toNat) = false) :
    voiceSetup P s = .error (.fatal (s.beforeVb.fatalEntry .fail)) := by
  rw [voiceSetup_eq, if_neg long, if_neg (by simp [unsupplied])]

theorem exec_voiceSetup_of_ok {t : State} (h : voiceSetup Config.params s = .ok ((), t)) :
    exec .voiceSetup s = .next t := congrArg finish h

theorem exec_voiceSetup_of_fatal {t : State} (h : voiceSetup Config.params s = .error (.fatal t)) :
    exec .voiceSetup s = .next t := congrArg finish h

end

end Sys2Proof.Machine

namespace Sys2Proof

open Machine

/-- Settles O16: by the three ends of the setup; each formula is the exact rational that its truncated division
stands for. -/
theorem voiceSetup : Obligations.VoiceSetup := by
  intro s V count sps scale F
  by_cases short : V.duration.toNat < Config.params.minDuration
  · exact ⟨_, exec_voiceSetup_of_ok (voiceSetup_of_short short), by rw [if_pos short]; rfl⟩
  cases supplied : Config.params.supplies count with
  | false =>
    refine ⟨_, exec_voiceSetup_of_fatal (voiceSetup_of_unsupplied short supplied), ?_⟩
    rw [if_neg short, if_pos rfl]
    exact ⟨rfl, rfl⟩
  | true =>
    refine ⟨_, exec_voiceSetup_of_ok (voiceSetup_of_supplied short supplied), ?_⟩
    rw [if_neg short, if_neg (by decide)]
    refine ⟨rfl, toNat_voiceCount _, rfl, rfl, rfl, fun i p entry => ⟨?_, ?_, ?_, ?_⟩, fun vib => ⟨?_, ?_⟩,
      fun trem => ⟨?_, ?_⟩, ?_⟩
    · exact (vget_overlay_map _ entry).trans (delaySamples_eq _ _)
    · exact vget_overlay_map partialVolume entry
    · exact (vget_overlay_map _ entry).trans (phaseRate_eq _ _ _ _)
    · exact (vget_overlay_map _ entry).trans (phaseRate_eq _ _ _ _)
    · exact (if_pos vib).trans (phaseRate_unit _ _ _)
    · exact (if_pos vib).trans (phaseRate_unit _ _ _)
    · exact (if_pos trem).trans (phaseRate_unit _ _ _)
    · exact (if_pos trem).trans (phaseRate_unit _ _ _)
    · exact delaySamples_eq _ _

end Sys2Proof
end

section
/-! Loops and stages: what a stage of a voice may write (`43_voice_stages.md` R233; `10_state.md` R25), and a loop of
the model as the same operation performed at each sample index. -/

namespace Sys2Proof.Machine

/-! ### Sequences of operations -/

@[simp] theorem andThen_next (s : State) (f : State → Host.Outcome State Fault Refusal) :
    andThen (.next s) f = f s := rfl

/-- An operation performed at each sample index is the loop over its effect, where an invariant makes it complete. -/
theorem execAt_eq_forUp {i : Instr} {body : State → State} {I : State → Prop}
    (run : ∀ n t, I t → exec i (t.atN n) = .next (body (t.atN n)) ∧ I (body (t.atN n)))
    (start count : Nat) {s : State} (hs : I s) :
    execAt i start count s = .next (forUp (fun n t => body (t.atN n)) start count s) ∧
      I (forUp (fun n t => body (t.atN n)) start count s) := by
  induction count generalizing start s with
  | zero => exact ⟨rfl, hs⟩
  | succ count ih =>
    obtain ⟨completes, kept⟩ := run start s hs
    rw [execAt, completes, andThen_next, forUp_succ]
    exact ih (start + 1) kept

/-! ### What a stage may write -/

/-- The buffer holds every sample of the voice. -/
abbrev State.covered (s : State) : Prop := s.vs.count.toNat ≤ s.vb.words.length

/-- The state without what a stage of a voice may write: the sequencer's place, the voice buffer, and the registers of
the evaluators, the oscillators, the gate and the filter. -/
def State.unstaged (s : State) : State :=
  { s with
    seq := State.reset.seq, vb := State.reset.vb, env := State.reset.env
    osc := State.reset.osc, gate := State.reset.gate, flt := State.reset.flt }

/-- What a stage of a voice leaves as it was: in the sequencer's place it moves within the command and the voice, and of
the voice buffer it writes words only. -/
structure State.Staged (s t : State) : Prop where
  unstaged : t.unstaged = s.unstaged
  state : t.seq.state = s.seq.state
  voice : t.seq.voice = s.seq.voice
  length : t.vb.words.length = s.vb.words.length

section
variable {s t u : State}

theorem State.Staged.refl (s : State) : s.Staged s := ⟨rfl, rfl, rfl, rfl⟩

theorem State.Staged.trans (h : s.Staged t) (k : t.Staged u) : s.Staged u :=
  ⟨k.unstaged.trans h.unstaged, k.state.trans h.state, k.voice.trans h.voice, k.length.trans h.length⟩

/-- The state with what a stage of a voice may write taken from another state. -/
def State.restaged (s t : State) : State :=
  { s with seq := t.seq, vb := t.vb, env := t.env, osc := t.osc, gate := t.gate, flt := t.flt }

theorem State.restaged_eq (s t : State) :
    s.restaged t = (((((s.setSeq t.seq).setVb t.vb).setEnv t.env).setOsc t.osc).setGate t.gate).setFlt t.flt := by
  simp only [State.restaged, State.setSeq, State.setVb, State.setEnv, State.setOsc, State.setGate, State.setFlt]

theorem State.Staged.eq_restaged (h : s.Staged t) : t = s.restaged t :=
  calc t = t.unstaged.restaged t := rfl
    _ = s.unstaged.restaged t := by rw [h.unstaged]
    _ = s.restaged t := rfl

theorem State.Staged.vs (h : s.Staged t) : t.vs = s.vs := (congrArg State.vs h.unstaged :)

theorem State.Staged.pool (h : s.Staged t) : t.pool = s.pool := (congrArg State.pool h.unstaged :)

theorem State.Staged.cfg (h : s.Staged t) : t.cfg = s.cfg := (congrArg State.cfg h.unstaged :)

theorem State.Staged.voice_eq (h : s.Staged t) : t.voice = s.voice := by
  rw [State.voice, State.voiceOf, h.voice, h.cfg]
  rfl

theorem State.Staged.covered (h : s.Staged t) (covered : s.covered) : t.covered := by
  rw [State.covered, h.vs, h.length]
  exact covered

theorem State.Staged.ite {c : Prop} [Decidable c] (ht : s.Staged t) (hu : s.Staged u) :
    s.Staged (if c then t else u) := by
  split
  · exact ht
  · exact hu

/-- A loop of parts of a stage is part of a stage. -/
theorem State.Staged.forUp {body : Nat → State → State} (h : ∀ n (t : State), t.Staged (body n t))
    (start count : Nat) (s : State) : s.Staged (forUp body start count s) :=
  forUp_keeps (fun _ t => s.Staged t) (.refl s) fun n t _ _ ht => ht.trans (h n t)

/-- The place in a loop after it. -/
theorem State.Staged.afterLoop (h : s.Staged t) (start count : Nat) : s.Staged (t.afterLoop start count) := by
  obtain ⟨n, moved⟩ := t.afterLoop_eq_setSeq start count
  rw [moved]
  exact h.trans ⟨rfl, rfl, rfl, rfl⟩

end

end Sys2Proof.Machine
end

section
/-! The synthesis of a voice (`43_voice_stages.md` R234): `OSC.SAMPLE` at each sample index in turn. -/

namespace Sys2Proof.Machine

/-- What the synthesis leaves as it was: of what a stage may write, the gate, the filter, and the buffer beyond the
voice's samples. -/
structure State.Synthed (s t : State) : Prop extends s.Staged t where
  gate : t.gate = s.gate
  flt : t.flt = s.flt
  array : t.vb.array = s.vb.array
  beyond : ∀ j, s.vs.count.toNat ≤ j → t.vb.read j = s.vb.read j

section
variable {s t u : State}

theorem State.Synthed.trans (h : s.Synthed t) (k : t.Synthed u) : s.Synthed u where
  toStaged := h.toStaged.trans k.toStaged
  gate := k.gate.trans h.gate
  flt := k.flt.trans h.flt
  array := k.array.trans h.array
  beyond j outside := (k.beyond j (by rwa [h.toStaged.vs])).trans (h.beyond j outside)

/-- A move of the sequencer within its command and voice. -/
theorem State.synthed_setSeq {x : Seq} (state : x.state = s.seq.state) (voice : x.voice = s.seq.voice) :
    s.Synthed (s.setSeq x) := ⟨⟨rfl, state, voice, rfl⟩, rfl, rfl, rfl, fun _ _ => rfl⟩

/-- One sample, where the buffer holds every sample of the voice. -/
theorem State.synthed_oscSample (covered : s.covered) :
    exec .oscSample s = .next (s.oscSample Config.params) ∧ s.Synthed (s.oscSample Config.params) := by
  have held (i : Fin 10) (_ : i.val < s.voice.partials.length) (reach : s.reaches i) :
      s.partialPos i < s.vb.words.length := Nat.lt_of_lt_of_le reach covered
  obtain ⟨t, run, sounded⟩ := exec_oscSample_sounds held
  have same : s.oscSample Config.params = t := by
    have both := (exec_oscSample_of_held held).symm.trans run
    injection both
  rw [same]
  have frame := sounded.frame
  rw [State.setOsc_beforePartials, ← sounded.env] at frame
  exact ⟨run, ⟨(congrArg State.unstaged frame :), (congrArg (·.seq.state) frame :), (congrArg (·.seq.voice) frame :),
    sounded.length⟩, (congrArg State.gate frame :), (congrArg State.flt frame :), sounded.array,
    fun j => sounded.read_beyond⟩

/-- The synthesis is `OSC.SAMPLE` at each sample index. -/
theorem State.voiceSynth_run (covered : s.covered) :
    execAt .oscSample 0 s.vs.count.toNat (s.atStage .synth) = .next (s.voiceSynth Config.params) ∧
      s.Synthed (s.voiceSynth Config.params) := by
  refine execAt_eq_forUp (I := s.Synthed) (fun n t synthed => ?_) 0 _ (State.synthed_setSeq rfl rfl)
  have moved : s.Synthed (t.atN n) := synthed.trans (State.synthed_setSeq rfl rfl)
  obtain ⟨run, sampled⟩ := State.synthed_oscSample (moved.toStaged.covered covered)
  exact ⟨run, moved.trans sampled⟩

theorem exec_voiceSynth_of_covered (covered : s.covered) :
    exec .voiceSynth s = .next (s.voiceSynth Config.params) := by
  have covers : s.vb.covers s.vs.count.toNat = true := decide_eq_true covered
  rw [exec, execVoiceSynth, covers, Bool.true_or, needVb_true]

/-- A partial that starts within the voice finds no word at the end of a shorter buffer (`10_state.md` R50; log 7). -/
theorem exec_voiceSynth_of_short {i : Fin 10} (has : i.val < s.voice.partials.length)
    (starts : (vget s.vs.delay i).toNat < s.vs.count.toNat) (short : s.vb.words.length < s.vs.count.toNat) :
    exec .voiceSynth s = .fault .vbNoValue := by
  have uncovered : s.vb.covers s.vs.count.toNat = false := decide_eq_false (Nat.not_le.2 short)
  have reached : (s.partialIndices.all fun i => decide (s.vs.count.toNat ≤ (vget s.vs.delay i).toNat)) = false := by
    rw [List.all_eq_false]
    exact ⟨i, State.mem_partialIndices.2 has, by simpa using starts⟩
  rw [exec, execVoiceSynth, uncovered, reached]
  rfl

end

/-- Settles O17: by the loop of samples, which keeps the buffer long enough for each. -/
theorem voiceSynth : Obligations.VoiceSynth := by
  intro s count
  refine ⟨fun covered => ?_, fun i => exec_voiceSynth_of_short⟩
  obtain ⟨run, synthed⟩ := State.voiceSynth_run covered
  refine ⟨_, exec_voiceSynth_of_covered covered, run, ?_, synthed.state, synthed.voice, synthed.array, synthed.length,
    synthed.beyond⟩
  have restaged := synthed.eq_restaged
  rw [State.restaged_eq, synthed.gate, synthed.flt] at restaged
  exact restaged

end Sys2Proof.Machine
end

section
/-! The gate (`43_voice_stages.md` R239 to R242). -/

namespace Sys2Proof.Machine

/-- A word written, read back word by word: nothing where the access is not performed (`20_memory.md` R66). -/
theorem Buffer.read_write (b : Buffer) (i : Nat) (x : Word) (j : Nat) :
    (b.write i x).read j = if j = i then (b.read j).map fun _ => x else b.read j := by
  by_cases same : j = i
  · subst same
    rw [if_pos rfl, Buffer.read, Buffer.write, List.getElem?_set', if_pos rfl]
    rfl
  · rw [if_neg same, Buffer.read_write_other b x same]

/-- The counter and the mute flag, by whether the threshold is reached (`43_voice_stages.md` R242). -/
theorem gateFlip_eq (ctr : Word) (muted : Bool) (thr : Word) :
    let flip := decide (thr.toInt ≤ (ctr + 256).toInt)
    gateFlip ctr muted thr = ⟨if flip then 0 else ctr + 256, if flip then !muted else muted, thr⟩ := by
  intro flip
  rw [gateFlip, Config.gateInc]
  by_cases reached : thr.toInt ≤ (ctr + 256).toInt
  · rw [if_pos reached, if_pos (decide_eq_true reached), if_pos (decide_eq_true reached)]
  · rw [if_neg reached, if_neg (by simpa [flip] using reached), if_neg (by simpa [flip] using reached)]

section
variable (P : Params) (s : State)

/-- The value that the adaptive threshold takes: the evaluator of the state that the gate is in
(`43_voice_stages.md` R241). -/
def State.gateValue : Word :=
  if s.gate.muted then (envEvalRegs s.voice.gate.first s.env.gsil s.vs.count).1
  else (envEvalRegs s.voice.gate.second s.env.gdur s.vs.count).1

/-- The gate's registers after one step. -/
def State.gateNext : GateRegs :=
  gateFlip s.gate.ctr s.gate.muted (gateThreshold P s.voice.gate.first s.gateValue)

theorem State.gateStep_eq : s.gateStep P =
    ((s.setEnv { s.env with
      gsil := (envEvalRegs s.voice.gate.first s.env.gsil s.vs.count).2
      gdur := (envEvalRegs s.voice.gate.second s.env.gdur s.vs.count).2 }).setGate (s.gateNext P)).setVb
        (if (s.gateNext P).muted then s.vb.write s.seq.n.toNat 0 else s.vb) := by
  change (if (s.gateNext P).muted then _ else _) = _
  split <;> rfl

theorem State.gateInit_eq : s.gateInit P =
    (s.setEnv { s.env with
      gsil := envResetRegs s.voice.gate.first
      gdur := envResetRegs s.voice.gate.second }).setGate { s.gate with ctr := 0, muted := P.gateInitMuted } := by
  simp only [State.gateInit, s.envReset_eq .gsil, State.envReset_setEnv, State.setEnv_gate, EnvBank.set, Voice.envelope]

theorem exec_gateStep : exec .gateStep s = .next (s.gateStep Config.params) := rfl

theorem exec_gateInit : exec .gateInit s = .next (s.gateInit Config.params) := rfl

end

/-- Settles O18: by the one form of a step, in which the flip decides the flag and the flag the sample. -/
theorem gate : Obligations.Gate := by
  intro s S sil dur thr ctr flip muted
  have next : s.gateNext Config.params = ⟨if flip then 0 else ctr, muted, thr⟩ := gateFlip_eq _ _ _
  refine ⟨?_, _, exec_gateStep s, ?_⟩
  · rw [exec_gateInit, State.gateInit_eq]
    rfl
  rw [State.gateStep_eq, next, State.setVb_vb]
  refine ⟨rfl, ite_const Buffer.array rfl rfl, fun j => ?_⟩
  cases muted with
  | false => simp
  | true => simpa using s.vb.read_write _ 0 j

end Sys2Proof.Machine
end

section
/-! The echo (`43_voice_stages.md` R245, R246): the recursion in place, one word after the other. -/

namespace Sys2Proof.Machine

/-- What one echo adds, in integers (`43_voice_stages.md` R245). -/
theorem echoTerm_eq (x : Word) (mix : BitVec 15) :
    echoTerm x mix = BitVec.ofInt 32 (Int.tdiv (BitVec.ofInt 32 (x.toInt * mix.toNat)).toInt 100) := by
  rw [BitVec.ofInt_mul, BitVec.ofInt_toInt, BitVec.ofInt_natCast, BitVec.ofNat_toNat]
  rfl

/-- What the recursion has done when it comes to the word `n`: the words from the delay on are their old values and
the scaled values one delay before them, which are new ones unless the delay is 0. -/
structure Buffer.Echoed (b : Buffer) (d : Nat) (mix : BitVec 15) (n : Nat) (c : Buffer) : Prop where
  array : c.array = b.array
  length : c.words.length = b.words.length
  others : ∀ j, j < d ∨ n ≤ j → c.read j = b.read j
  echoes : ∀ j, d ≤ j → j < n → c.term j = b.term j + echoTerm ((if d = 0 then b else c).term (j - d)) mix

section
variable {b c : Buffer} {d n : Nat} {mix : BitVec 15}

theorem Buffer.echoed_start (b : Buffer) (d : Nat) (mix : BitVec 15) : b.Echoed d mix d b :=
  ⟨rfl, rfl, fun _ _ => rfl, fun _ from_d before => absurd before (Nat.not_lt.2 from_d)⟩

/-- A word that the recursion has not come to is the old one. -/
theorem Buffer.Echoed.term_ahead (h : b.Echoed d mix n c) {j : Nat} (ahead : n ≤ j) : c.term j = b.term j := by
  rw [Buffer.term, h.others j (.inr ahead), Buffer.term]

/-- One more word: the one a delay before it is read before it is written, and is another unless the delay is 0. -/
theorem Buffer.Echoed.next (h : b.Echoed d mix n c) (from_d : d ≤ n) (inside : n < b.words.length) :
    b.Echoed d mix (n + 1) (c.add n (echoTerm (c.term (n - d)) mix)) where
  array := h.array
  length := by rw [Buffer.length_add, h.length]
  others j outside := by
    rw [Buffer.add, Buffer.read_write_other _ _ (by omega), h.others j (by omega)]
  echoes j from_d' before := by
    have source : (if d = 0 then b else c.add n (echoTerm (c.term (n - d)) mix)).term (j - d) =
        (if d = 0 then b else c).term (j - d) := by
      by_cases none : d = 0
      · rw [if_pos none, if_pos none]
      · rw [if_neg none, if_neg none, Buffer.term_add_other _ _ (by omega)]
    rw [source]
    rcases Nat.lt_or_ge j n with earlier | now
    · rw [Buffer.term_add_other _ _ (by omega), h.echoes j from_d' earlier]
    · obtain rfl : j = n := by omega
      rw [Buffer.term_add_same _ _ (h.length ▸ inside), h.term_ahead (Nat.le_refl j)]
      by_cases none : d = 0
      · rw [if_pos none, h.term_ahead (by omega)]
      · rw [if_neg none]

/-- The recursion over the words from the delay to the count, in a buffer that holds them. -/
theorem Buffer.echo_echoed {count : Nat} (held : count ≤ b.words.length ∨ count ≤ d) :
    b.Echoed d mix (d + (count - d)) (b.echo d count mix) :=
  forUp_keeps (b.Echoed d mix) (b.echoed_start d mix) fun _ _ from_d before echoed =>
    echoed.next from_d (by omega)

end

section
variable {s : State}

theorem exec_echoApply_of_held
    (held : s.vs.count.toNat ≤ s.vb.words.length ∨ s.vs.count.toNat ≤ s.vs.echoDelay.toNat) :
    exec .echoApply s = .next s.echoApply := by
  refine needVb_eq_next.2 ⟨?_, rfl⟩
  rw [Bool.or_eq_true, decide_eq_true_eq, Buffer.covers, decide_eq_true_eq]
  exact held

theorem exec_echoApply_of_short (short : s.vb.words.length < s.vs.count.toNat)
    (reads : s.vs.echoDelay.toNat < s.vs.count.toNat) : exec .echoApply s = .fault .vbNoValue := by
  have uncovered : s.vb.covers s.vs.count.toNat = false := decide_eq_false (Nat.not_le.2 short)
  have delayed : decide (s.vs.count.toNat ≤ s.vs.echoDelay.toNat) = false := decide_eq_false (Nat.not_le.2 reads)
  rw [exec, execEchoApply, uncovered, delayed]
  rfl

/-- `ECHO.APPLY` writes `VB` by the recursion and moves the sequencer's stage and sample index. -/
theorem State.echoApply_eq (s : State) : ∃ n : Word,
    s.echoApply = (s.setSeq { s.seq with stage := .echo, n := n }).setVb
      (s.vb.echo s.vs.echoDelay.toNat s.vs.count.toNat s.voice.echoMix) := by
  obtain ⟨n, moved⟩ := ((s.atStage .echo).setVb
    (s.vb.echo s.vs.echoDelay.toNat s.vs.count.toNat s.voice.echoMix)).afterLoop_eq_setSeq s.vs.echoDelay.toNat
      (s.vs.count.toNat - s.vs.echoDelay.toNat)
  exact ⟨n, moved⟩

end

/-- Settles O19: by the recursion's invariant, read at the last word. -/
theorem echoApply : Obligations.EchoApply := by
  intro s d count
  refine ⟨fun held => ?_, exec_echoApply_of_short⟩
  obtain ⟨n, result⟩ := s.echoApply_eq
  refine ⟨_, exec_echoApply_of_held held, ?_⟩
  rw [result]
  obtain ⟨array, length, others, echoes⟩ := Buffer.echo_echoed (b := s.vb) (mix := s.voice.echoMix) held
  refine ⟨rfl, array, length, fun j outside => others j (by omega), fun late j from_d before => ?_,
    fun none j before => ?_⟩
  · rw [← echoTerm_eq]
    exact (echoes j from_d (by omega)).trans (by rw [if_neg (Nat.ne_of_gt late)]; rfl)
  · rw [← echoTerm_eq]
    exact (echoes j (by omega) (by omega)).trans (by rw [if_pos none, none, Nat.sub_zero])

end Sys2Proof.Machine
end

section
/-! The render of one voice (`43_voice_stages.md` R233, R250): its stages in order, and what it leaves. -/

namespace Sys2Proof.Machine

/-! ### What each stage after the synthesis may write -/

section
variable (P : Params) (s : State)

/-- A move of the sequencer within its stage. -/
theorem State.staged_atN (n : Nat) : s.Staged (s.atN n) := ⟨rfl, rfl, rfl, rfl⟩

theorem State.staged_atStage (x : Stage) : s.Staged (s.atStage x) := ⟨rfl, rfl, rfl, rfl⟩

theorem State.staged_envReset (e : Role) : s.Staged (s.envReset e) := ⟨rfl, rfl, rfl, rfl⟩

theorem State.staged_envEval (e : Role) (period : Word) : s.Staged (s.envEval e period).2 := ⟨rfl, rfl, rfl, rfl⟩

theorem State.staged_setFlt (x : FltRegs) : s.Staged (s.setFlt x) := ⟨rfl, rfl, rfl, rfl⟩

/-- A voice buffer of the same length. -/
theorem State.staged_setVb {b : Buffer} (length : b.words.length = s.vb.words.length) : s.Staged (s.setVb b) :=
  ⟨rfl, rfl, rfl, length⟩

theorem State.staged_setGate (x : GateRegs) : s.Staged (s.setGate x) := ⟨rfl, rfl, rfl, rfl⟩

theorem State.staged_gateInit : s.Staged (s.gateInit P) :=
  ((s.staged_envReset .gsil).trans (State.staged_envReset _ .gdur)).trans (State.staged_setGate _ _)

theorem State.staged_gateStep : s.Staged (s.gateStep P) := by
  rw [State.gateStep_eq]
  refine ⟨rfl, rfl, rfl, ?_⟩
  exact ite_const (fun b : Buffer => b.words.length) (Buffer.length_write _ _ _) rfl

theorem State.staged_echoApply : s.Staged s.echoApply := by
  have length : (s.vb.echo s.vs.echoDelay.toNat s.vs.count.toNat s.voice.echoMix).words.length = s.vb.words.length :=
    forUp_const (fun b : Buffer => b.words.length) (fun _ _ => Buffer.length_add _ _ _) _ _ _
  exact ((s.staged_atStage .echo).trans (State.staged_setVb _ length)).afterLoop _ _

theorem State.staged_fltStep (n : Nat) : s.Staged (s.fltStep P n) :=
  (s.staged_setFlt _).trans (State.staged_setVb _ (Buffer.length_write _ _ _))

theorem State.staged_fltSample (n : Nat) : s.Staged (s.fltSample P n) := by
  have evaluated : (s.atN n).Staged (if s.voice.filter.cutoffPresent then (s.atN n).envEval .cut (s.atN n).vs.count
      else (0, s.atN n)).2 := by
    split
    · exact State.staged_envEval _ _ _
    · exact .refl _
  have converted (t : State) (c : Bool) : t.Staged (if c then t.fltCoef P else t) := .ite (t.staged_setFlt _) (.refl t)
  exact ((((s.staged_atN n).trans evaluated).trans (State.staged_setFlt _ _)).trans (converted _ _)).trans
    (State.staged_fltStep P _ n)

theorem State.staged_fltApply : s.Staged (s.fltApply P) :=
  ((s.staged_atStage .filter).trans (.ite (State.staged_envReset _ .cut) (.refl _))).trans
    (.forUp (fun n t => t.staged_fltSample P n) _ _ _)

theorem State.staged_voiceClip : s.Staged s.voiceClip :=
  ((s.staged_atStage .clip).trans (State.staged_setVb _ (Buffer.length_clip _ _))).afterLoop _ _

end

/-! ### The stages as operations -/

section
variable {s : State}

/-- The gate stage is `GATE.INIT`, then `GATE.STEP` at each sample index (`43_voice_stages.md` R233). -/
theorem State.gateStage_run (s : State) :
    andThen (exec .gateInit (s.atStage .gate)) (execAt .gateStep 0 s.vs.count.toNat) =
        .next (s.gateStage Config.params) ∧
      s.Staged (s.gateStage Config.params) := by
  rw [exec_gateInit, andThen_next]
  refine execAt_eq_forUp (I := s.Staged) (fun n t staged => ⟨exec_gateStep _, ?_⟩) 0 _ ?_
  · exact (staged.trans (t.staged_atN n)).trans (State.staged_gateStep _ _)
  · exact (s.staged_atStage .gate).trans (State.staged_gateInit _ _)

theorem exec_fltApply_of_covered (covered : s.covered) : exec .fltApply s = .next (s.fltApply Config.params) := by
  have covers : s.vb.covers s.vs.count.toNat = true := decide_eq_true covered
  rw [exec, execFltApply, covers, Bool.true_or, needVb_true]

/-- The echo runs when both its fields are greater than 0 (`43_voice_stages.md` R246). -/
theorem Voice.echoOn_iff (V : Voice) : V.echoOn = true ↔ 0 < V.echoDelay.toNat ∧ 0 < V.echoMix.toNat := by
  rw [Voice.echoOn, Bool.and_eq_true, bne_iff_ne, bne_iff_ne, Nat.pos_iff_ne_zero, Nat.pos_iff_ne_zero,
    ← BitVec.toNat_ne_iff_ne, ← BitVec.toNat_ne_iff_ne]
  rfl

/-- An optional stage, performed as an operation. -/
theorem ite_next_run {c : Prop} [Decidable c] {o : Host.Outcome State Fault Refusal} {t : State} (run : o = .next t) :
    (if c then o else .next s) = .next (if c then t else s) := by
  rw [run, apply_ite Host.Outcome.next]

/-- The state of a voice when its synthesis has been through the gate, the echo and the filter. -/
def State.beforeClip (P : Params) (s : State) : State :=
  let g := if s.voice.gate.present then s.gateStage P else s
  let e := if s.voice.echoOn then g.echoApply else g
  if s.voice.filterPresent then e.fltApply P else e

theorem State.voiceStages_eq (P : Params) (s : State) : s.voiceStages P = (s.beforeClip P).voiceClip := rfl

/-- The stages after the synthesis, each the operation of its own, where the buffer holds every sample. -/
theorem State.voiceStages_run (covered : s.covered) :
    (andThen (if s.voice.gate.present then
        andThen (exec .gateInit (s.atStage .gate)) (execAt .gateStep 0 s.vs.count.toNat) else .next s) fun c =>
      andThen (if 0 < s.voice.echoDelay.toNat ∧ 0 < s.voice.echoMix.toNat then exec .echoApply c else .next c) fun d =>
      andThen (if s.voice.filterPresent then exec .fltApply d else .next d) (exec .voiceClip)) =
        .next (s.voiceStages Config.params) ∧
      s.Staged (s.beforeClip Config.params) := by
  obtain ⟨gateRun, gateStaged⟩ := s.gateStage_run
  rw [ite_next_run gateRun, andThen_next, State.voiceStages_eq, State.beforeClip]
  have gated : s.Staged (if s.voice.gate.present then s.gateStage Config.params else s) := .ite gateStaged (.refl s)
  generalize (if s.voice.gate.present then s.gateStage Config.params else s) = g at gated ⊢
  have echoRun := exec_echoApply_of_held (.inl (gated.covered covered))
  rw [if_congr (Voice.echoOn_iff s.voice).symm rfl rfl, ite_next_run echoRun, andThen_next]
  have echoed : s.Staged (if s.voice.echoOn then g.echoApply else g) :=
    .ite (gated.trans g.staged_echoApply) gated
  generalize (if s.voice.echoOn then g.echoApply else g) = e at echoed ⊢
  rw [ite_next_run (exec_fltApply_of_covered (echoed.covered covered)), andThen_next]
  have filtered : s.Staged (if s.voice.filterPresent then e.fltApply Config.params else e) :=
    .ite (echoed.trans (e.staged_fltApply _)) echoed
  exact ⟨exec_voiceClip_of_covered (filtered.covered covered), filtered⟩

end

/-! ### The render -/

section
variable {s : State}

/-- The state after the setup holds the samples of the voice. -/
theorem State.afterSetup_covered (P : Params) (s : State) : (s.afterSetup P).covered := by
  have length : (s.afterSetup P).vb.words.length = ms2s s.voice.duration.toNat := length_acquired P _ _
  have count : (s.afterSetup P).vs.count.toNat = ms2s s.voice.duration.toNat := toNat_voiceCount _
  rw [State.covered, length, count]

/-- A setup that ends lets the stages follow, unless the voice has no sample. -/
theorem exec_voiceRender_of_ok {a : State} (h : voiceSetup Config.params s = .ok ((), a)) : exec .voiceRender s =
    .next (if a.vs.count = 0 then a else (a.voiceSynth Config.params).voiceStages Config.params) := by
  rw [exec, execVoiceRender, voiceRender_eq, h]
  rfl

/-- A setup that ends in a fatal exception is all of the render. -/
theorem exec_voiceRender_of_fatal {a : State} (h : voiceSetup Config.params s = .error (.fatal a)) :
    exec .voiceRender s = .next a := by
  rw [exec, execVoiceRender, voiceRender_eq, h]
  rfl

theorem exec_voiceRender_of_short (short : s.voice.duration.toNat < Config.params.minDuration) :
    exec .voiceRender s = .next ((s.atStage .setup).setVs { s.vs with count := 0 }) :=
  (exec_voiceRender_of_ok (voiceSetup_of_short short)).trans (congrArg _ (if_pos rfl))

theorem exec_voiceRender_of_supplied (long : ¬ s.voice.duration.toNat < Config.params.minDuration)
    (supplied : Config.params.supplies (ms2s s.voice.duration.toNat) = true) : exec .voiceRender s =
      .next (((s.afterSetup Config.params).voiceSynth Config.params).voiceStages Config.params) :=
  (exec_voiceRender_of_ok (voiceSetup_of_supplied long supplied)).trans
    (congrArg _ (if_neg (voiceCount_ne_zero long)))

/-- A short voice needs no buffer (`43_voice_stages.md` R231). -/
theorem Voice.supplied_of_short {V : Voice} {P : Params} (short : V.duration.toNat < P.minDuration) :
    V.supplied P = true := by
  rw [Voice.supplied, decide_eq_true short, Bool.true_or]

theorem Voice.supplied_of_long {V : Voice} {P : Params} (long : ¬ V.duration.toNat < P.minDuration) :
    V.supplied P = P.supplies (ms2s V.duration.toNat) := by
  rw [Voice.supplied, decide_eq_false long, Bool.false_or]
  rfl

/-! ### What the render leaves -/

/-- Every word of a buffer clipped as a whole is in the 16-bit range. -/
theorem Buffer.clip_inRange {b : Buffer} {n : Nat} (whole : b.words.length ≤ n) :
    ∀ x ∈ (b.clip n).words, inRange16 x := by
  intro x member
  obtain ⟨j, inside, here⟩ := List.mem_iff_getElem.1 member
  have read : (b.clip n).read j = some x := List.getElem?_eq_some_iff.2 ⟨inside, here⟩
  rw [Buffer.length_clip] at inside
  rw [Buffer.read_clip, if_pos (by omega), Buffer.read_eq_term b inside] at read
  cases read
  exact clip16_range _

/-- The state with what the render of a voice may write taken from another state. -/
def State.revoiced (s t : State) : State := { s.restaged t with vs := t.vs, pool := t.pool }

theorem State.revoiced_eq (s t : State) : s.revoiced t =
    (((((((s.setSeq t.seq).setVs t.vs).setVb t.vb).setPool t.pool).setEnv t.env).setOsc t.osc).setGate t.gate).setFlt
      t.flt := by
  simp only [State.revoiced, State.restaged, State.setSeq, State.setVs, State.setVb, State.setPool, State.setEnv,
    State.setOsc, State.setGate, State.setFlt]

/-- What the stages leave as the setup left it, and the setup as it was. -/
theorem State.Staged.eq_revoiced {P : Params} {t : State} (h : (s.afterSetup P).Staged t) : t = s.revoiced t :=
  calc t = (s.afterSetup P).restaged t := h.eq_restaged
    _ = s.revoiced t := by
      rw [State.revoiced, h.vs, h.pool]
      rfl

/-- The state when the voice has only its clip to come. -/
theorem State.staged_beforeClip (s : State) : (s.afterSetup Config.params).Staged
    (((s.afterSetup Config.params).voiceSynth Config.params).beforeClip Config.params) := by
  have covered := s.afterSetup_covered Config.params
  obtain ⟨-, synthed⟩ := State.voiceSynth_run covered
  exact synthed.toStaged.trans (State.voiceStages_run (synthed.toStaged.covered covered)).2

end

end Sys2Proof.Machine

namespace Sys2Proof

open Machine

/-- Settles O21: by the three ends of the setup; where it acquired a buffer, the buffer holds every sample at each
stage, so that every operation completes. -/
theorem voiceRender : Obligations.VoiceRender := by
  intro s V
  by_cases short : V.duration.toNat < Config.params.minDuration
  · refine ⟨_, exec_voiceRender_of_short short, ?_⟩
    rw [exec_voiceSetup_of_ok (voiceSetup_of_short short), andThen_next, if_pos (.inl rfl)]
  cases supplied : Config.params.supplies (ms2s V.duration.toNat) with
  | false =>
    have fatal := voiceSetup_of_unsupplied short supplied
    refine ⟨_, exec_voiceRender_of_fatal fatal, ?_⟩
    rw [exec_voiceSetup_of_fatal fatal, andThen_next, if_pos (.inr ((Voice.supplied_of_long short).trans supplied))]
  | true =>
    refine ⟨_, exec_voiceRender_of_supplied short supplied, ?_⟩
    have covered := s.afterSetup_covered Config.params
    obtain ⟨-, synthed⟩ := State.voiceSynth_run covered
    obtain ⟨stages, -⟩ := State.voiceStages_run (synthed.toStaged.covered covered)
    have voice : ((s.afterSetup Config.params).voiceSynth Config.params).voice = V := synthed.toStaged.voice_eq
    have goes_on : ¬ ((s.afterSetup Config.params).vs.count = 0 ∨ V.supplied Config.params = false) := by
      rw [Voice.supplied_of_long short, supplied]
      exact fun h => h.elim (voiceCount_ne_zero short) (by decide)
    rw [exec_voiceSetup_of_ok (voiceSetup_of_supplied short supplied), andThen_next, if_neg goes_on,
      exec_voiceSynth_of_covered covered, andThen_next]
    rw [voice] at stages
    exact stages

/-- Settles O22: by the three ends of the setup; what follows it stays inside what the stages may write, and ends with
the clip of the whole buffer. -/
theorem voiceResult : Obligations.VoiceResult := by
  intro s V
  by_cases short : V.duration.toNat < Config.params.minDuration
  · refine ⟨_, exec_voiceRender_of_short short, ?_⟩
    rw [if_pos (Voice.supplied_of_short short), if_pos short, ← State.revoiced_eq]
    exact ⟨rfl, rfl, rfl, rfl, rfl⟩
  rw [Voice.supplied_of_long short]
  cases supplied : Config.params.supplies (ms2s V.duration.toNat) with
  | false =>
    refine ⟨_, exec_voiceRender_of_fatal (voiceSetup_of_unsupplied short supplied), ?_⟩
    exact ⟨rfl, toNat_voiceCount _, rfl, rfl⟩
  | true =>
    refine ⟨_, exec_voiceRender_of_supplied short supplied, ?_⟩
    rw [if_pos rfl, if_neg short, State.voiceStages_eq, ← State.revoiced_eq]
    have before := s.staged_beforeClip
    have after := before.trans (State.staged_voiceClip _)
    generalize ((s.afterSetup Config.params).voiceSynth Config.params).beforeClip Config.params = u at before after ⊢
    have count : (s.afterSetup Config.params).vs.count.toNat = V.duration.toNat * 22050 / 1000 := toNat_voiceCount _
    have length : (s.afterSetup Config.params).vb.words.length = (s.afterSetup Config.params).vs.count.toNat :=
      (length_acquired _ _ _).trans count.symm
    refine ⟨after.eq_revoiced, after.state, after.voice, by rw [after.vs, count], ?_, ?_⟩
    · rw [after.vs, after.length, length]
    · obtain ⟨n, clipped⟩ := u.voiceClip_eq
      rw [clipped]
      exact Buffer.clip_inRange (by rw [before.vs, before.length, length])

end Sys2Proof
end

section
/-! One output sample of the filter (`44_filter.md` R273, R274, R277): its sum in integers, and the words it reads. -/

namespace Sys2Proof.Machine

/-! ### The sum -/

theorem wideMul_eq_ofInt (c x : Word) : wideMul c x = BitVec.ofInt 64 (c.toInt * x.toInt) := by
  rw [wideMul, BitVec.ofInt_mul, BitVec.signExtend, BitVec.signExtend]

/-- The term of a tap at an index that is not negative; a register that does not exist counts as 0 (log 23). -/
theorem tapTerm_natCast (b : Buffer) (count : Nat) (coef : Vector Word 8) (k j : Nat) :
    tapTerm b count coef k j =
      BitVec.ofInt 64 (if j < count then ((coef[k]?).getD 0).toInt * (b.term j).toInt else 0) := by
  rw [tapTerm]
  split
  next register =>
    simp only [Vector.getElem?_eq_getElem register, Option.getD_some, apply_ite (BitVec.ofInt 64), wideMul_eq_ofInt,
      Int.toNat_natCast, Int.natCast_nonneg, Nat.cast_lt, true_and]
    rfl
  next missing =>
    rw [Vector.getElem?_eq_none (Nat.not_lt.1 missing)]
    simp

/-- Before the first sample there is none (`44_filter.md` R274). -/
theorem tapTerm_of_neg (b : Buffer) (count : Nat) (coef : Vector Word 8) (k : Nat) {j : Int} (before : j < 0) :
    tapTerm b count coef k j = 0 := by
  have outside : ¬ (0 ≤ j ∧ j < (count : Int)) := fun h => absurd h.1 (Int.not_le.2 before)
  simp only [tapTerm, if_neg outside, dite_eq_ite, ite_self]

/-- A feedforward tap (`44_filter.md` R273). -/
theorem tapTerm_feedforward (b : Buffer) (count : Nat) (coef : Vector Word 8) (n : Nat) {c k : Nat} (h : k < c) :
    tapTerm b count coef k (feedforwardIndex Config.params.ffTapBase n c k) =
      BitVec.ofInt 64 (if n + c - k < count then ((coef[k]?).getD 0).toInt * (b.term (n + c - k)).toInt else 0) := by
  have base : Config.params.ffTapBase = 0 := rfl
  have index : feedforwardIndex Config.params.ffTapBase n c k = ((n + c - k : Nat) : Int) := by
    rw [feedforwardIndex, base]
    omega
  rw [index, tapTerm_natCast]

/-- A feedback tap. -/
theorem tapTerm_feedback (b : Buffer) (count : Nat) (coef : Vector Word 8) (n k : Nat) :
    tapTerm b count coef k (feedbackIndex n k) = BitVec.ofInt 64
      (if k < n ∧ n - 1 - k < count then ((coef[k]?).getD 0).toInt * (b.term (n - 1 - k)).toInt else 0) := by
  by_cases held : k < n
  · have index : feedbackIndex n k = ((n - 1 - k : Nat) : Int) := by
      rw [feedbackIndex]
      omega
    rw [index, tapTerm_natCast]
    simp only [held, true_and]
  · rw [tapTerm_of_neg _ _ _ _ (by rw [feedbackIndex]; omega), if_neg fun h => held h.1]
    rfl

section
variable {f : Nat → Wide} {g : Nat → Int} {m : Nat}

/-- A sum in the accumulator is the exact sum, wrapped once (log 36). -/
theorem foldl_add_eq_ofInt (h : ∀ k < m, f k = BitVec.ofInt 64 (g k)) (a : Int) :
    (List.range m).foldl (fun acc k => acc + f k) (BitVec.ofInt 64 a) =
      BitVec.ofInt 64 (a + ∑ k ∈ Finset.range m, g k) := by
  induction m with
  | zero => simp
  | succ m ih =>
    rw [List.range_succ, List.foldl_append, ih fun k below => h k (by omega), Finset.sum_range_succ, ← Int.add_assoc,
      BitVec.ofInt_add _ (g m), ← h m (by omega)]
    rfl

theorem foldl_sub_eq_ofInt (h : ∀ k < m, f k = BitVec.ofInt 64 (g k)) (a : Int) :
    (List.range m).foldl (fun acc k => acc - f k) (BitVec.ofInt 64 a) =
      BitVec.ofInt 64 (a - ∑ k ∈ Finset.range m, g k) := by
  have negated : ∀ k < m, -f k = BitVec.ofInt 64 (-g k) := fun k below => by rw [h k below, BitVec.ofInt_neg]
  simp only [BitVec.sub_eq_add_neg]
  rw [foldl_add_eq_ofInt negated, Finset.sum_neg_distrib, Int.sub_eq_add_neg]

end

/-- The sum of one output sample (`44_filter.md` R277). -/
theorem fltSum_eq_ofInt (F : Filter) (r : FltRegs) (b : Buffer) (count n : Nat) :
    let c0 := 2 * F.ff.count.toNat
    let x := fun j : Nat => (b.term j).toInt
    fltSum Config.params F r b count n = BitVec.ofInt 64 ((if n + c0 < count then r.g.toInt * x (n + c0) else 0)
      + (∑ k ∈ Finset.range c0, if n + c0 - k < count then ((r.ff[k]?).getD 0).toInt * x (n + c0 - k) else 0)
      - (∑ k ∈ Finset.range (2 * F.fb.count.toNat),
          if k < n ∧ n - 1 - k < count then ((r.fb[k]?).getD 0).toInt * x (n - 1 - k) else 0)) := by
  intro c0 x
  have direct : (if n + c0 < count then wideMul r.g (b.term (n + c0)) else 0) =
      BitVec.ofInt 64 (if n + c0 < count then r.g.toInt * x (n + c0) else 0) := by
    rw [apply_ite (BitVec.ofInt 64), ← wideMul_eq_ofInt]
    rfl
  have taps : F.ff.taps = c0 := rfl
  rw [fltSum, directIndex, taps, direct, foldl_add_eq_ofInt fun k => tapTerm_feedforward b count r.ff n,
    foldl_sub_eq_ofInt fun k _ => tapTerm_feedback b count r.fb n k, Channel.taps]

/-! ### The words it reads -/

section
variable {F : Filter} {n j : Nat}

/-- Without feedforward taps the direct term reads the sample itself. -/
theorem mem_fltReads_direct (none : 2 * F.ff.count.toNat = 0) : (n : Int) ∈ fltReads Config.params F n := by
  rw [fltReads, Channel.taps, none]
  exact List.mem_cons_self ..

theorem mem_fltReads_forward (legal : F.ff.count.toNat ≤ 4) (ahead : n < j) (near : j ≤ n + 2 * F.ff.count.toNat) :
    (j : Int) ∈ fltReads Config.params F n := by
  have base : Config.params.ffTapBase = 0 := rfl
  refine List.mem_append_left _ (List.mem_cons_of_mem _ (List.mem_map.2 ⟨n + 2 * F.ff.count.toNat - j, ?_, ?_⟩))
  · rw [List.mem_range, Channel.taps]
    omega
  · rw [feedforwardIndex, base, Channel.taps]
    omega

theorem mem_fltReads_back (legal : F.fb.count.toNat ≤ 4) (behind : j < n) (near : n ≤ j + 2 * F.fb.count.toNat) :
    (j : Int) ∈ fltReads Config.params F n := by
  refine List.mem_append_right _ (List.mem_map.2 ⟨n - 1 - j, ?_, ?_⟩)
  · rw [List.mem_range, Channel.taps]
    omega
  · rw [feedbackIndex]
    omega

end

section
variable {s : State}

theorem State.fltValued_of_covered (P : Params) (covered : s.covered) (n : Nat) : s.fltValued P n = true := by
  refine List.all_eq_true.2 fun j _ => ?_
  simp only [Buffer.valued, Bool.or_eq_true, decide_eq_true_eq]
  have : s.vs.count.toNat ≤ s.vb.words.length := covered
  omega

theorem State.fltValued_of_missing {P : Params} {n j : Nat} (reads : (j : Int) ∈ fltReads P s.voice.filter n)
    (inside : j < s.vs.count.toNat) (missing : s.vb.words.length ≤ j) : s.fltValued P n = false := by
  refine List.all_eq_false.2 ⟨j, reads, ?_⟩
  simp only [Buffer.valued, Bool.or_eq_true, decide_eq_true_eq]
  omega

/-! ### The operation -/

theorem exec_fltStep_of_covered (covered : s.covered) :
    exec .fltStep s = .next (s.fltStep Config.params s.seq.n.toNat) := by
  rw [exec, execFltStep, State.fltValued_of_covered _ covered, needVb_true]

theorem exec_fltStep_of_missing {j : Nat} (reads : (j : Int) ∈ fltReads Config.params s.voice.filter s.seq.n.toNat)
    (inside : j < s.vs.count.toNat) (missing : s.vb.words.length ≤ j) : exec .fltStep s = .fault .vbNoValue := by
  rw [exec, execFltStep, State.fltValued_of_missing reads inside missing]
  rfl

end

/-- Settles O24: by the sum in integers, and the three ways in which a word is read. -/
theorem filterStep : Obligations.FilterStep := by
  intro s F n c0 c1 count x ff fb sum
  refine ⟨fun covered => ?_, fun legal0 legal1 j inside missing reads => ?_⟩
  · have acc : fltSum Config.params F s.flt s.vb count n = BitVec.ofInt 64 sum := fltSum_eq_ofInt _ _ _ _ _
    refine ⟨_, exec_fltStep_of_covered covered, ?_⟩
    rw [State.fltStep, acc]
    refine ⟨rfl, rfl, ?_, fun j other => Buffer.read_write_other _ _ other⟩
    exact (Buffer.read_write _ _ _ _).trans (if_pos rfl)
  · refine exec_fltStep_of_missing (j := j) ?_ inside missing
    rcases reads with ⟨none, rfl⟩ | ⟨ahead, near⟩ | ⟨behind, near⟩
    · exact mem_fltReads_direct none
    · exact mem_fltReads_forward legal0 ahead near
    · exact mem_fltReads_back legal1 behind near

end Sys2Proof.Machine
end

section
/-! The cascade of second-order sections (`44_filter.md` R266, R267): the length of its vector, and what it is over
exact arithmetic. -/

namespace Sys2Proof.Machine

/-! ### The vector -/

@[simp] theorem length_cascade (N : Num) (C : List Rat) (ab : Rat × Rat) : (cascade N C ab).length = C.length + 2 := by
  rw [cascade, List.length_map, List.length_range]

theorem getElem?_cascade (N : Num) (C : List Rat) (a b : Rat) {j : Nat} (inside : j < C.length + 2) :
    (cascade N C (a, b))[j]? = some (realSum N (cascadeTerms N C a b j)) := by
  rw [cascade, List.getElem?_map, List.getElem?_range inside]
  rfl

/-- Each section adds two entries (`44_filter.md` R267). -/
theorem length_foldl_cascade (N : Num) (sections : List (Rat × Rat)) (C : List Rat) :
    (sections.foldl (cascade N) C).length = C.length + 2 * sections.length := by
  induction sections generalizing C with
  | nil => rfl
  | cons ab rest ih =>
    rw [List.foldl_cons, ih, length_cascade, List.length_cons]
    omega

/-! ### A channel, pole by pole -/

/-- The poles that a channel has, endpoint by endpoint. -/
theorem Channel.poles_eq (c : Channel) :
    c.poles = (polesBelow c.count).map fun p => (vget c.first p, vget c.last p) := by
  have pairs : c.first.toList.zip c.last.toList =
      ([0, 1, 2, 3] : List (Fin 4)).map fun p => (vget c.first p, vget c.last p) := by
    apply List.ext_getElem?
    intro k
    rcases k with _ | _ | _ | _ | k <;> simp [vget]
  rw [Channel.poles, pairs, polesBelow, List.map_take]

/-- The amplitude of pole `p` of a channel (`44_filter.md` R264). -/
def Channel.amplitudeAt (P : Params) (F : Filter) (tval : Word) (c : Channel) (p : Fin 4) : Rat :=
  poleAmplitude P F tval (vget c.first p) (vget c.last p)

/-- The section of pole `p` of a channel (`44_filter.md` R265, R266). -/
def Channel.sectionAt (P : Params) (F : Filter) (tval : Word) (c : Channel) (p : Fin 4) : Rat × Rat :=
  sectionOf P.num (c.amplitudeAt P F tval p) (poleAngle P F tval (vget c.first p) (vget c.last p))

/-- The coefficient vector of a channel: 0 where every amplitude is, else the cascade of the sections, scaled. -/
theorem channelVector_eq (P : Params) (F : Filter) (tval : Word) (c : Channel) (scale : Rat → Rat) :
    channelVector P F tval c scale =
      if (polesBelow c.count).all fun p => c.amplitudeAt P F tval p == 0 then
        List.replicate (2 * (polesBelow c.count).length) 0
      else (((polesBelow c.count).map (c.sectionAt P F tval)).foldl (cascade P.num) []).map scale := by
  simp only [channelVector, Channel.poles_eq, List.map_map, List.all_map, List.length_map]
  rfl

/-! ### Over exact arithmetic -/

section
variable {N : Num}

theorem realSum_eq_sum (add : ∀ x y, N.add x y = x + y) (l : List Rat) : realSum N l = l.sum := by
  cases l with
  | nil => rfl
  | cons x rest =>
    have plus : N.add = (· + ·) := funext fun x => funext (add x)
    calc realSum N (x :: rest) = rest.foldl (· + ·) (x + 0) := by rw [realSum, plus, add_zero]
      _ = x + rest.foldl (· + ·) 0 := List.foldl_assoc
      _ = (x :: rest).sum := by rw [List.sum_cons, List.sum_eq_foldl]

/-- An entry that the vector does not have is 0 by the rule. -/
theorem sum_toList (x : Option Rat) : x.toList.sum = x.getD 0 := by cases x <;> simp

theorem sum_map_toList (mul : ∀ x y, N.mul x y = x * y) (a : Rat) (x : Option Rat) :
    (x.toList.map (N.mul a)).sum = a * x.getD 0 := by cases x <;> simp [mul]

/-- The terms of one entry are those of the product of the running polynomial and one section
(`44_filter.md` R267). -/
theorem sum_cascadeTerms (mul : ∀ x y, N.mul x y = x * y) (C : List Rat) (a b : Rat) (j : Nat) :
    (cascadeTerms N C a b j).sum = (C[j]?).getD 0 + a * (if j = 0 then 1 else (C[j - 1]?).getD 0)
      + b * (if j = 0 then 0 else if j = 1 then 1 else (C[j - 2]?).getD 0) := by
  match j with
  | 0 => simp [cascadeTerms, sum_toList]
  | 1 => simp [cascadeTerms, sum_toList, sum_map_toList mul, add_assoc]
  | j + 2 => simp [cascadeTerms, sum_toList, sum_map_toList mul, add_assoc]

theorem getElem?_cascade_exact (add : ∀ x y, N.add x y = x + y) (mul : ∀ x y, N.mul x y = x * y) (C : List Rat)
    (a b : Rat) {j : Nat} (inside : j < C.length + 2) : (cascade N C (a, b))[j]? =
      some ((C[j]?).getD 0 + a * (if j = 0 then 1 else (C[j - 1]?).getD 0)
        + b * (if j = 0 then 0 else if j = 1 then 1 else (C[j - 2]?).getD 0)) := by
  rw [getElem?_cascade _ _ _ _ inside, realSum_eq_sum add, sum_cascadeTerms mul]

/-- The first section is the running vector itself. -/
theorem cascade_nil (add : ∀ x y, N.add x y = x + y) (mul : ∀ x y, N.mul x y = x * y) (a b : Rat) :
    cascade N [] (a, b) = [a, b] := by
  simp [cascade, List.range_succ, realSum_eq_sum add, sum_cascadeTerms mul]

/-- The four coefficients of two sections (`44_filter.md` R267). -/
theorem cascade_pair (add : ∀ x y, N.add x y = x + y) (mul : ∀ x y, N.mul x y = x * y) (a0 b0 a1 b1 : Rat) :
    cascade N [a0, b0] (a1, b1) = [a0 + a1, a0 * a1 + b0 + b1, a0 * b1 + a1 * b0, b0 * b1] := by
  simp [cascade, List.range_succ, realSum_eq_sum add, sum_cascadeTerms mul, mul_comm, add_comm]

/-- A section of amplitude 0 is 0. -/
theorem sectionOf_zero (mul : ∀ x y, N.mul x y = x * y) (angle : Rat) : sectionOf N 0 angle = (0, 0) := by
  simp [sectionOf, mul]

end

end Sys2Proof.Machine

namespace Sys2Proof

open Machine

/-- Settles O26: entry by entry; a channel without amplitude has sections of 0, whose product is 0 as well. -/
theorem filterCascade : Obligations.FilterCascade := by
  intro P add mul
  refine ⟨fun C a b => ⟨length_cascade _ _ _, fun j => getElem?_cascade_exact add mul C a b⟩, ?_⟩
  intro F tval c two sect s0 s1
  have poles : polesBelow c.count = [0, 1] := by rw [two]; rfl
  rw [channelVector_eq, poles]
  split
  next silent =>
    obtain ⟨amp0, amp1⟩ : c.amplitudeAt P F tval 0 = 0 ∧ c.amplitudeAt P F tval 1 = 0 := by simpa using silent
    have zero0 : s0 = (0, 0) := (congrArg (sectionOf P.num · _) amp0).trans (sectionOf_zero mul _)
    have zero1 : s1 = (0, 0) := (congrArg (sectionOf P.num · _) amp1).trans (sectionOf_zero mul _)
    rw [zero0, zero1]
    simp [List.replicate]
  next =>
    have first : cascade P.num [] s0 = [s0.1, s0.2] := cascade_nil add mul _ _
    have second := cascade_pair add mul s0.1 s0.2 s1.1 s1.2
    calc List.map (fun x => x) (cascade P.num (cascade P.num [] s0) s1)
      _ = cascade P.num [s0.1, s0.2] s1 := by rw [first, List.map_id']
      _ = _ := second

end Sys2Proof
end

section
/-! The conversion of the coefficients (`44_filter.md` R262 to R270): each formula over the operations of `Num`, and
the results that an exact interpolated value of 0 gives. -/

namespace Sys2Proof.Machine

section
variable (P : Params) (F : Filter) (tval : Word)

/-- The interpolated value is exactly 0 (`44_filter.md` R263, R270), written as a weighted sum of its endpoints. -/
theorem lerpIsZero_eq (x y : BitVec 16) : lerpIsZero F tval x y =
    let pos : Int := if F.cutoffPresent then tval.toInt else 0
    decide ((65536 - pos) * x.toNat + pos * y.toNat = 0) := by
  have weights (t : Int) : (x.toNat : Int) * 65536 + ((y.toNat : Int) - x.toNat) * t =
      (65536 - t) * x.toNat + t * y.toNat := by ring
  simp only [lerpIsZero, weights]
  rfl

theorem lerpIsZero_of_zero : lerpIsZero F tval 0 0 = true := by simp [lerpIsZero]

/-- The gain is 1 where both gains are 0 (`44_filter.md` R263). -/
theorem inverseGain_of_zero (first : F.gain0 = 0) (last : F.gain1 = 0) : inverseGain P F tval = 1 := by
  rw [inverseGain, first, last, if_pos (lerpIsZero_of_zero F tval)]

/-- The angle of a pole, its constants written out (`44_filter.md` R265). -/
theorem poleAngle_eq (p0 p1 : Pole) : poleAngle P F tval p0 p1 =
    let octaves := P.num.mul
      (lerp P.num (cutoffPosition P.num F tval) (p0.phase.toNat : Rat) (p1.phase.toNat : Rat)) P.phaseOctScale
    P.num.div (P.num.mul (P.num.mul 2 P.num.pi) (P.num.mul (32703197 / 1000000) (P.num.exp2 octaves))) 22050 := by
  have rate : (Config.sampleRate : Rat) = 22050 := Nat.cast_ofNat
  rw [poleAngle, rate]
  rfl

/-! ### The taps -/

/-- The conversion of a whole number loses nothing but the wrap (`44_filter.md` R261). -/
theorem wrapTrunc_intCast (x : Int) : wrapTrunc (x : Rat) = wrap32 x := by
  rw [wrapTrunc, truncRat, tdiv, Rat.num_intCast, Rat.den_intCast, Nat.cast_one, Int.tdiv_one]

/-- A tap of a channel as a real: entry `k` of the cascade of its sections, scaled; 0 where every amplitude is 0
(`44_filter.md` R266 to R268, R270). -/
def Channel.tapAt (c : Channel) (scale : Rat → Rat) (k : Nat) : Rat :=
  if (polesBelow c.count).all fun p => c.amplitudeAt P F tval p == 0 then 0
  else scale (((((polesBelow c.count).map (c.sectionAt P F tval)).foldl (cascade P.num) [])[k]?).getD 0)

/-- The vector of a channel has two entries for each pole, and those are its taps. -/
theorem getElem?_channelVector (c : Channel) (scale : Rat → Rat) (k : Fin 8) :
    (channelVector P F tval c scale)[k.val]? =
      if k.val < 2 * c.count.toNat then some (c.tapAt P F tval scale k.val) else none := by
  have poles : (polesBelow c.count).length = min c.count.toNat 4 := List.length_take
  have entries := length_foldl_cascade P.num ((polesBelow c.count).map (c.sectionAt P F tval)) []
  rw [List.length_nil, List.length_map, Nat.zero_add] at entries
  have last := k.isLt
  have named : k.val < 2 * (polesBelow c.count).length ↔ k.val < 2 * c.count.toNat := by omega
  rw [channelVector_eq, Channel.tapAt]
  split
  next silent => rw [List.getElem?_replicate, if_congr named rfl rfl]
  next sounding =>
    rw [List.getElem?_map]
    split
    next inside => rw [List.getElem?_eq_getElem (by omega), Option.map_some, Option.getD_some]
    next outside => rw [List.getElem?_eq_none (by omega), Option.map_none]

/-- The taps that the pole count names are converted, the others stay (`44_filter.md` R269; log 33). -/
theorem vget_overlay_channelVector (c : Channel) (scale : Rat → Rat) (v : Vector Word 8) (k : Fin 8) :
    vget (overlay v ((channelVector P F tval c scale).map toFixed)) k =
      if k.val < 2 * c.count.toNat then wrapTrunc (c.tapAt P F tval scale k.val * 65536) else vget v k := by
  have entry := getElem?_channelVector P F tval c scale k
  split
  next named =>
    rw [if_pos named] at entry
    exact vget_overlay_map toFixed entry
  next unnamed =>
    rw [if_neg unnamed] at entry
    simp [vget, overlay, entry]

variable {c : Channel}

/-- A channel without magnitudes has amplitudes of 0, and so has taps of 0 (`44_filter.md` R270). -/
theorem Channel.tapAt_of_silent (scale : Rat → Rat) (k : Nat) (silent : ∀ p : Fin 4,
    p.val < c.count.toNat → (vget c.first p).magnitude = 0 ∧ (vget c.last p).magnitude = 0) :
    c.tapAt P F tval scale k = 0 := by
  refine if_pos (List.all_eq_true.2 fun p member => ?_)
  obtain ⟨first, last⟩ := silent p (mem_polesBelow.1 member)
  rw [Channel.amplitudeAt, poleAmplitude, first, last, if_pos (lerpIsZero_of_zero F tval)]
  rfl

end

/-! ### The operation -/

theorem exec_fltCoef (s : State) : exec .fltCoef s = .next (s.fltCoef Config.params) := rfl

end Sys2Proof.Machine

namespace Sys2Proof

open Machine

/-- Settles O25: each formula of the statement is that of the model, and a tap register the one entry of its channel. -/
theorem filterIdentity : Obligations.FilterIdentity := by
  intro s F P N pos t between isZero falling gain amp angle sect poles tap silent
  have zero_eq (x y : BitVec 16) : isZero x y = lerpIsZero F s.flt.tval x y := (lerpIsZero_eq F s.flt.tval x y).symm
  have gain_eq : gain = inverseGain P F s.flt.tval := by
    simp only [gain, zero_eq]
    rfl
  have amp_eq (c : Channel) (p : Fin 4) : amp c p = c.amplitudeAt P F s.flt.tval p := by
    simp only [amp, zero_eq]
    rfl
  have angle_eq (c : Channel) (p : Fin 4) : angle c p = poleAngle P F s.flt.tval (vget c.first p) (vget c.last p) :=
    (poleAngle_eq P F s.flt.tval _ _).symm
  have sect_eq (c : Channel) : sect c = c.sectionAt P F s.flt.tval := by
    funext p
    simp only [sect, amp_eq, angle_eq]
    rfl
  have tap_eq (c : Channel) (scale : Rat → Rat) (k : Nat) : tap c scale k = c.tapAt P F s.flt.tval scale k := by
    simp only [tap, amp_eq, sect_eq]
    rfl
  have still : wrapTrunc (0 * 65536) = 0 :=
    (congrArg wrapTrunc (zero_mul _)).trans (wrapTrunc_intCast 0)
  refine ⟨_, exec_fltCoef s, rfl, ?_, fun k => ?_, fun k => ?_, fun quiet k named => ?_, fun quiet k named => ?_,
    fun first last => ?_⟩
  · rw [gain_eq]
    rfl
  · simp only [tap_eq, gain_eq]
    exact vget_overlay_channelVector P F s.flt.tval F.ff _ s.flt.ff k
  · simp only [tap_eq]
    exact vget_overlay_channelVector P F s.flt.tval F.fb id s.flt.fb k
  · refine (vget_overlay_channelVector P F s.flt.tval F.ff _ s.flt.ff k).trans ?_
    rw [if_pos named, Channel.tapAt_of_silent P F s.flt.tval _ _ quiet, still]
  · refine (vget_overlay_channelVector P F s.flt.tval F.fb id s.flt.fb k).trans ?_
    rw [if_pos named, Channel.tapAt_of_silent P F s.flt.tval _ _ quiet, still]
  · refine (congrArg toFixed (inverseGain_of_zero P F s.flt.tval first last)).trans ?_
    exact (congrArg wrapTrunc (by norm_num)).trans (wrapTrunc_intCast 65536)

end Sys2Proof
end

section
/-! The filter over a whole voice (`44_filter.md` R272, R275, R276): the loop over `FLT.COEF` and `FLT.STEP`, and what
it leaves. -/

namespace Sys2Proof.Machine

/-! ### What the filter may write -/

/-- The state with what the filter may write taken from another state: the sequencer's stage and sample index, the
cutoff evaluator, the filter's registers and the voice buffer. -/
def State.refiltered (s t : State) : State :=
  (((s.setSeq { s.seq with stage := t.seq.stage, n := t.seq.n }).setEnv { s.env with cut := t.env.cut }).setFlt
    t.flt).setVb t.vb

/-- What the filter leaves as it was: of the voice buffer it writes the voice's samples only. -/
structure State.Filtered (s t : State) : Prop where
  frame : t = s.refiltered t
  array : t.vb.array = s.vb.array
  length : t.vb.words.length = s.vb.words.length
  beyond : ∀ j, s.vs.count.toNat ≤ j → t.vb.read j = s.vb.read j

section
variable {s t u : State}

theorem State.Filtered.vs (h : s.Filtered t) : t.vs = s.vs := (congrArg State.vs h.frame :)

theorem State.Filtered.voice (h : s.Filtered t) : t.voice = s.voice := (congrArg State.voice h.frame :)

theorem State.Filtered.covered (h : s.Filtered t) (covered : s.covered) : t.covered := by
  rw [State.covered, h.vs, h.length]
  exact covered

theorem State.Filtered.refl (s : State) : s.Filtered s := ⟨rfl, rfl, rfl, fun _ _ => rfl⟩

theorem State.Filtered.trans (h : s.Filtered t) (k : t.Filtered u) : s.Filtered u where
  frame := calc u = t.refiltered u := k.frame
    _ = (s.refiltered t).refiltered u := congrArg (State.refiltered · u) h.frame
    _ = s.refiltered u := rfl
  array := k.array.trans h.array
  length := k.length.trans h.length
  beyond j outside := (k.beyond j (by rwa [h.vs])).trans (h.beyond j outside)

/-- A part of the filter that writes no word. -/
theorem State.filtered_of_frame (frame : t = s.refiltered t) (words : t.vb = s.vb) : s.Filtered t :=
  ⟨frame, by rw [words], by rw [words], fun _ _ => by rw [words]⟩

theorem State.filtered_fltStep (P : Params) {n : Nat} (inside : n < s.vs.count.toNat) : s.Filtered (s.fltStep P n) :=
  ⟨rfl, rfl, Buffer.length_write _ _ _, fun _ outside => Buffer.read_write_other _ _ (by omega)⟩

end

/-! ### One sample -/

/-- The value and the registers of the cutoff evaluator after one sample; without one, 0 and the registers as they
were (`44_filter.md` R276, R279). -/
def State.cutoffNext (s : State) : Word × EnvRegs :=
  if s.voice.filter.cutoffPresent then envEvalRegs s.voice.filter.cutoff s.env.cut s.vs.count else (0, s.env.cut)

/-- The state at sample `n` when the cutoff evaluator has run. -/
def State.cutoffSampled (s : State) (n : Nat) : State :=
  ((s.atN n).setEnvRegs .cut s.cutoffNext.2).setFlt { s.flt with tval := s.cutoffNext.1 }

/-- The same when the coefficients have been recomputed, where they are. -/
def State.fltPrepared (P : Params) (s : State) (n : Nat) : State :=
  if coefHere s.vs.count.toNat s.voice.filter.ff.taps s.voice.filter.fb.taps n then (s.cutoffSampled n).fltCoef P
  else s.cutoffSampled n

theorem coefHere_iff {count c0 c1 n : Nat} : coefHere count c0 c1 n = true ↔
    n = 0 ∨ (min c1 (count - c0) < n ∧ n < count - c0 ∧ (n - min c1 (count - c0)) % 128 = 0) := by
  simp only [coefHere, Bool.or_eq_true, Bool.and_eq_true, beq_iff_eq, decide_eq_true_eq, and_assoc]
  rfl

section
variable (s : State)

theorem State.fltSample_eq (P : Params) (n : Nat) : s.fltSample P n = (s.fltPrepared P n).fltStep P n := by
  simp only [State.fltSample, State.fltPrepared, State.cutoffSampled, State.cutoffNext]
  cases s.voice.filter.cutoffPresent <;> rfl

theorem State.filtered_fltPrepared (P : Params) (n : Nat) : s.Filtered (s.fltPrepared P n) := by
  unfold State.fltPrepared
  split
  · exact State.filtered_of_frame rfl rfl
  · exact State.filtered_of_frame rfl rfl

variable {s}

theorem State.filtered_fltSample (P : Params) {n : Nat} (inside : n < s.vs.count.toNat) :
    s.Filtered (s.fltSample P n) := by
  rw [State.fltSample_eq]
  have prepared := s.filtered_fltPrepared P n
  exact prepared.trans (State.filtered_fltStep P (by rwa [prepared.vs]))

/-- The loop of the rule takes its sample from the prepared state by `FLT.STEP`. -/
theorem filterSamples_succ (n count : Nat) : filterSamples n (count + 1) s =
    andThen (exec .fltStep (s.fltPrepared Config.params n)) (filterSamples (n + 1) count) := by
  have prepared : (if n = 0 ∨ (min s.voice.filter.fb.taps (s.vs.count.toNat - s.voice.filter.ff.taps) < n ∧
        n < s.vs.count.toNat - s.voice.filter.ff.taps ∧
        (n - min s.voice.filter.fb.taps (s.vs.count.toNat - s.voice.filter.ff.taps)) % 128 = 0) then
      exec .fltCoef (s.cutoffSampled n) else .next (s.cutoffSampled n)) =
        Host.Outcome.next (s.fltPrepared Config.params n) := by
    rw [State.fltPrepared, exec_fltCoef, apply_ite Host.Outcome.next, if_congr coefHere_iff rfl rfl]
  exact congrArg (fun o => andThen (andThen o (exec .fltStep)) (filterSamples (n + 1) count)) prepared

theorem exec_fltStep_of_prepared (covered : s.covered) {n : Nat} (inside : n < s.vs.count.toNat) :
    exec .fltStep (s.fltPrepared Config.params n) = .next (s.fltSample Config.params n) := by
  have index : (s.fltPrepared Config.params n).seq.n.toNat = n := by
    have at_n : (s.fltPrepared Config.params n).seq.n = BitVec.ofNat 32 n :=
      ite_const (fun u : State => u.seq.n) rfl rfl
    have := s.vs.count.isLt
    rw [at_n, BitVec.toNat_ofNat]
    omega
  rw [exec_fltStep_of_covered ((s.filtered_fltPrepared _ n).covered covered), index, State.fltSample_eq]

/-! ### The loop -/

/-- The loop of the rule is that of the model, where the buffer holds the voice's samples. -/
theorem filterSamples_run (covered : s.covered) {n count : Nat} (inside : n + count ≤ s.vs.count.toNat) :
    filterSamples n count s = .next (forUp (State.fltSample Config.params) n count s) ∧
      s.Filtered (forUp (State.fltSample Config.params) n count s) := by
  induction count generalizing n s with
  | zero => exact ⟨rfl, .refl s⟩
  | succ count ih =>
    have sample : s.Filtered (s.fltSample Config.params n) := State.filtered_fltSample _ (by omega)
    obtain ⟨run, rest⟩ := ih (sample.covered covered) (n := n + 1) (by rw [sample.vs]; omega)
    rw [filterSamples_succ, exec_fltStep_of_prepared covered (by omega), andThen_next, forUp_succ]
    exact ⟨run, sample.trans rest⟩

/-- The state at the start of the loop: the cutoff evaluator has been reset. -/
def State.filterStart (s : State) : State :=
  if s.voice.filter.cutoffPresent then (s.atStage .filter).envReset .cut else s.atStage .filter

theorem State.filtered_filterStart (s : State) : s.Filtered s.filterStart := by
  unfold State.filterStart
  split
  · exact State.filtered_of_frame rfl rfl
  · exact State.filtered_of_frame rfl rfl

theorem State.fltApply_eq (P : Params) (s : State) :
    s.fltApply P = forUp (State.fltSample P) 0 s.vs.count.toNat s.filterStart := by
  have count : s.filterStart.vs.count.toNat = s.vs.count.toNat := by rw [s.filtered_filterStart.vs]
  rw [← count]
  rfl

/-- A sample that reads a missing word ends the operation (`10_state.md` R50; log 7). -/
theorem exec_fltApply_of_missing {n j : Nat} (sample : n < s.vs.count.toNat)
    (reads : (j : Int) ∈ fltReads Config.params s.voice.filter n) (inside : j < s.vs.count.toNat)
    (missing : s.vb.words.length ≤ j) : exec .fltApply s = .fault .vbNoValue := by
  have uncovered : s.vb.covers s.vs.count.toNat = false := decide_eq_false (by omega)
  have unvalued : (List.range s.vs.count.toNat).all (s.fltValued Config.params) = false :=
    List.all_eq_false.2 ⟨n, List.mem_range.2 sample, by simp [State.fltValued_of_missing reads inside missing]⟩
  rw [exec, execFltApply, uncovered, unvalued]
  rfl

/-- A buffer that is too short misses the last sample: without feedforward taps the direct term reads it, else the last
feedforward tap does one sample before. -/
theorem exec_fltApply_of_short (short : s.vb.words.length < s.vs.count.toNat)
    (legal : s.voice.filter.ff.count.toNat ≤ 4) (reached : s.voice.filter.ff.count = 0 ∨ 1 < s.vs.count.toNat) :
    exec .fltApply s = .fault .vbNoValue := by
  rcases Nat.eq_zero_or_pos s.voice.filter.ff.count.toNat with none | some
  · exact exec_fltApply_of_missing (n := s.vs.count.toNat - 1) (by omega) (mem_fltReads_direct (by omega)) (by omega)
      (by omega)
  · have long : 1 < s.vs.count.toNat := reached.resolve_left fun none => by simp [none] at some
    exact exec_fltApply_of_missing (n := s.vs.count.toNat - 2) (j := s.vs.count.toNat - 1) (by omega)
      (mem_fltReads_forward legal (by omega) (by omega)) (by omega) (by omega)

end

/-- Settles O27: by the loop of samples, each of which stays inside what the filter may write. -/
theorem filterApply : Obligations.FilterApply := by
  intro s F count start
  refine ⟨fun covered => ?_, exec_fltApply_of_short⟩
  · have first := s.filtered_filterStart
    obtain ⟨run, rest⟩ := filterSamples_run (first.covered covered) (n := 0) (count := count)
      (by rw [first.vs, Nat.zero_add])
    obtain ⟨frame, array, length, beyond⟩ := first.trans rest
    rw [← State.fltApply_eq] at run frame array length beyond
    exact ⟨_, exec_fltApply_of_covered covered, run, frame, array, length, beyond⟩

end Sys2Proof.Machine
end

section
/-! The output of a render that ends (`45_mixer.md` R307, R308; `10_state.md` R48): the clip is the last to write it. -/

namespace Sys2Proof.Machine

/-- Every word of the output is held, and in the 16-bit range. -/
def State.outputClipped (s : State) : Prop := ∀ i, i < s.outLen.toNat → ∃ x, s.mb.read i = some x ∧ inRange16 x

/-- A word that the buffer holds, below the length of the clip, is in the range after it. -/
theorem Buffer.read_clip_inRange {b : Buffer} {n i : Nat} (below : i < n) (held : i < b.words.length) :
    ∃ x, (b.clip n).read i = some x ∧ inRange16 x := by
  refine ⟨clip16 (b.term i), ?_, clip16_range _⟩
  rw [Buffer.read_clip, if_pos below, Buffer.read_eq_term b held]
  rfl

section
variable {P : Params} {s t : State}

/-- The end of a render clips as many words as the output has. -/
theorem State.outputClipped_mixEnd (held : s.mixEnd.outputHeld) : s.mixEnd.outputClipped := by
  intro i below
  obtain ⟨n, clip⟩ := s.mixLoop.mixClip_eq
  have mb : s.mixEnd.mb = s.mixLoop.mb.clip s.mixLoop.mix.total.toNat := congrArg State.mb clip
  have outLen : s.mixEnd.outLen = s.mixLoop.mix.total := congrArg (·.mix.total) clip
  have inside : i < s.mixEnd.mb.words.length := below.trans_le held
  rw [mb, Buffer.length_clip] at inside
  rw [outLen] at below
  rw [mb]
  exact Buffer.read_clip_inRange below inside

/-- A render that ends has an empty output, or ends with the loop and the clip. -/
theorem mixRender_cases (h : mixRender P s = .ok ((), t)) : t.outLen = 0 ∨ ∃ u : State, t = u.mixEnd := by
  unfold mixRender at h
  split at h
  · dsimp only at h
    split at h
    · obtain ⟨_, _, -, rest⟩ := op_bind_eq_ok h
      obtain ⟨_, _, -, rest⟩ := op_bind_eq_ok rest
      obtain ⟨_, u, -, rest⟩ := op_bind_eq_ok rest
      cases rest
      exact .inr ⟨u, rfl⟩
    · cases h
  · cases h
    exact .inl rfl

theorem mixRender_outputClipped (h : mixRender P s = .ok ((), t)) : t.outputClipped := by
  rcases mixRender_cases h with empty | ⟨u, rfl⟩
  · intro i below
    rw [empty] at below
    exact absurd below (Nat.not_lt_zero i)
  · exact State.outputClipped_mixEnd (mixRender_outputHeld P h)

/-- A render that is DONE went through: every fatal exception leaves ERROR (`60_exceptions.md` R354, R360). -/
theorem cmdRender_of_done (accepted : s.acceptsWork = true) (h : finish (cmdRender P s) = .next t)
    (done : t.seq.state = .done) :
    ∃ u, mixRender P (s.beginCommand .rendering) = .ok ((), u) ∧ t = u.endRender := by
  rw [cmdRender_of_accepted accepted] at h
  split at h
  · have ends := mixRender_keeps P (s.beginCommand .rendering) rfl
    generalize mixRender P (s.beginCommand .rendering) = r at ends h
    cases ends with
    | done => cases h; exact ⟨_, rfl, rfl⟩
    | raised => cases h; cases done
    | fault => cases h
  · cases h
    cases done

end

/-- Settles O51: a render that is DONE ended with the clip of its whole output, which the mix buffer holds. -/
theorem outputClipped : Obligations.OutputClipped := by
  refine ⟨fun s => rfl, fun P s t accepted run done => ?_⟩
  obtain ⟨u, render, rfl⟩ := cmdRender_of_done accepted run done
  have clipped : u.outputClipped := mixRender_outputClipped render
  exact clipped

end Sys2Proof.Machine
end

section
/-! The lengths of a render (`45_mixer.md` R301 to R303): the longest voice, the loop and the total, in integers. -/

namespace Sys2Proof.Machine

/-! ### The longest voice -/

/-- When the voice of slot `v` ends, in milliseconds. -/
def State.voiceEnd (s : State) (v : Fin 10) : Nat := (s.voiceOf v).start.toNat + (s.voiceOf v).duration.toNat

theorem mem_tenIndices (v : Fin 10) : v ∈ tenIndices := by revert v; decide

section
variable (s : State)

/-- When the voices of a render end; 0 stands for none (log 31). -/
def State.voiceEnds : List Nat := 0 :: (tenIndices.filter s.isValid).map s.voiceEnd

theorem State.mem_voiceEnds {ms : Nat} : ms ∈ s.voiceEnds ↔ ms = 0 ∨ ∃ v, s.isValid v = true ∧ ms = s.voiceEnd v := by
  simp only [State.voiceEnds, List.mem_cons, List.mem_map, List.mem_filter, mem_tenIndices, true_and, @eq_comm _ ms]

/-- `MIX.LEN` takes the greatest of them. -/
theorem State.max?_voiceEnds : s.voiceEnds.max? = some s.cfg.totalMs := by
  rw [State.voiceEnds, List.max?_cons', List.foldl_map, List.foldl_filter]
  rfl

theorem State.totalMs_mem : s.cfg.totalMs ∈ s.voiceEnds := List.max?_mem s.max?_voiceEnds

theorem State.voiceEnd_le_totalMs {v : Fin 10} (valid : s.isValid v = true) : s.voiceEnd v ≤ s.cfg.totalMs :=
  (List.max?_le_iff s.max?_voiceEnds).1 le_rfl _ (s.mem_voiceEnds.2 (.inr ⟨v, valid, rfl⟩))

theorem State.totalMs_lt : s.cfg.totalMs < 131072 := by
  rcases s.mem_voiceEnds.1 s.totalMs_mem with zero | ⟨v, -, longest⟩
  · omega
  · rw [longest, State.voiceEnd]
    omega

/-! ### The registers -/

theorem State.toNat_single : s.mixLen.mix.single.toNat = ms2s s.cfg.totalMs := by
  have short := s.totalMs_lt
  change (ms2s s.cfg.totalMs) % 2 ^ 32 = _
  rw [ms2s_eq]
  omega

theorem State.loopValid_iff : s.mixLen.mix.loopValid = true ↔
    s.cfg.loopBegin.toNat < s.cfg.loopEnd.toNat ∧ s.cfg.loopEnd.toNat ≤ s.mixLen.mix.single.toNat := by
  rw [State.toNat_single]
  exact decide_eq_true_iff

theorem State.toNat_reps :
    s.mixLen.mix.reps.toNat = if s.mixLen.mix.loopValid then (max s.cfg.loopCount.toInt 1).toNat else 1 := by
  have range : s.cfg.loopCount.toInt < 2 ^ 31 := BitVec.toInt_lt
  change (if s.mixLen.mix.loopValid then (max s.cfg.loopCount.toInt 1).toNat else 1) % 2 ^ 32 = _
  split <;> omega

theorem State.total_eq : s.mixLen.mix.total =
    BitVec.ofNat 32 (s.cfg.exactTotal s.mixLen.mix.single.toNat s.mixLen.mix.reps.toNat) := by
  rw [State.toNat_single, State.toNat_reps]
  rfl

theorem exec_mixLen : exec .mixLen s = .next s.mixLen := rfl

end

/-- Settles O28: the longest voice is the greatest element of a list; no register but the total can wrap. -/
theorem mixLen : Obligations.MixLen := by
  intro s
  refine ⟨s.cfg.totalMs, s.mixLen, exec_mixLen s, rfl, fun v => s.voiceEnd_le_totalMs,
    s.mem_voiceEnds.1 s.totalMs_mem, s.toNat_single, ?_, ?_, ?_, fun invalid => ?_⟩
  · rw [s.loopValid_iff, s.toNat_single, ms2s_eq]
  · split
    next valid => rw [s.toNat_reps, if_pos valid]; omega
    next invalid => rw [← BitVec.toNat_inj, s.toNat_reps, if_neg invalid]; rfl
  · rw [s.total_eq, s.toNat_single]
    rfl
  · have once : s.mixLen.mix.reps.toNat = 1 := by rw [s.toNat_reps, invalid]; rfl
    rw [s.total_eq, once, Cfg.exactTotal, Nat.sub_self, Nat.mul_zero, Nat.add_zero, BitVec.ofNat_toNat,
      BitVec.setWidth_eq]

end Sys2Proof.Machine
end

section
/-! The buffer pool (`45_mixer.md` R330 to R334): which array serves a request, and what stays in the pool. -/

namespace Sys2Proof.Machine

section
variable {P : Params} {size : Nat} {pool : List Nat}

theorem arrayFor_of_large (large : P.poolCapacity < size) : arrayFor P size pool = size := if_pos large

theorem poolAfter_of_large (large : P.poolCapacity < size) : poolAfter P size pool = pool := if_pos large

/-- A request within the capacity takes the first pooled array that is long enough, or else a new one of the
capacity. -/
theorem arrayFor_cases (small : ¬ P.poolCapacity < size) :
    (arrayFor P size pool ∈ pool ∧ pool.Perm (arrayFor P size pool :: poolAfter P size pool)) ∨
      (arrayFor P size pool = P.poolCapacity ∧ poolAfter P size pool = pool ∧ ∀ a ∈ pool, a < size) := by
  rw [arrayFor, poolAfter, if_neg small, if_neg small]
  cases found : pool.find? fun a => decide (size ≤ a) with
  | some a =>
    obtain ⟨enough, before, after, rfl, shorter⟩ := List.find?_eq_some_iff_append.1 found
    have rest : (before ++ a :: after).eraseP (fun a => decide (size ≤ a)) = before ++ after := by
      rw [List.eraseP_append_right _ (by simpa using shorter),
        List.eraseP_cons_of_pos (p := fun a => decide (size ≤ a)) enough]
    exact .inl ⟨List.mem_append_right before List.mem_cons_self, rest ▸ List.perm_middle⟩
  | none =>
    have shorter := List.find?_eq_none.1 found
    exact .inr ⟨rfl, List.eraseP_of_forall_not shorter, fun a pooled => by simpa using shorter a pooled⟩

end

section
variable {s : State}

theorem exec_poolAcquire_of_supplied (supplied : Config.params.supplies s.io.size.toNat = true) :
    exec .poolAcquire s = .next ((s.setPool (poolAfter Config.params s.io.size.toNat s.pool)).setIo
      { s.io with buf := acquired Config.params s.io.size.toNat s.pool }) :=
  (execPoolAcquire_eq s).trans (congrArg _ (if_pos supplied))

theorem exec_poolAcquire_of_unsupplied (unsupplied : Config.params.supplies s.io.size.toNat = false) :
    exec .poolAcquire s = .next (s.fatalEntry .fail) :=
  (execPoolAcquire_eq s).trans (congrArg _ (if_neg (by simp [unsupplied])))

theorem exec_poolRelease : exec .poolRelease s =
    .next ((s.setPool (poolReleased Config.params s.io.buf s.pool)).setIo { s.io with buf := Buffer.blank }) := rfl

end

/-- Settles O32: a size of 0 is always supplied; which array serves the request is `arrayFor`, and what stays in the
pool `poolAfter` and `poolReleased`. -/
theorem pool : Obligations.Pool := by
  intro s
  refine ⟨?_, _, exec_poolRelease, rfl, ?_⟩
  · cases supplied : Config.params.supplies s.io.size.toNat with
    | false =>
      have sized : s.io.size ≠ 0 := fun zero => by simp [zero] at supplied
      refine ⟨_, exec_poolAcquire_of_unsupplied supplied, ?_⟩
      rw [if_neg (not_or.2 ⟨sized, by decide⟩)]
      exact ⟨rfl, rfl, rfl, rfl⟩
    | true =>
      refine ⟨_, exec_poolAcquire_of_supplied supplied, ?_⟩
      rw [if_pos (.inr rfl)]
      refine ⟨rfl, rfl, le_arrayFor _ _ _, ?_⟩
      split
      next large => exact ⟨arrayFor_of_large large, poolAfter_of_large large⟩
      next small => exact arrayFor_cases small
  · change if _ then poolReleased Config.params s.io.buf s.pool = _ else poolReleased _ _ _ = _
    rw [poolReleased]
    split <;> rfl

end Sys2Proof.Machine
end

section
/-! The accumulation of a voice into the mix buffer (`45_mixer.md` R304). -/

namespace Sys2Proof.Machine

/-- A word grown by another, read beside the words that stay. -/
theorem Buffer.read_add (b : Buffer) (i : Nat) (x : Word) (j : Nat) :
    (b.add i x).read j = (b.read j).map fun y => if j = i then y + x else y := by
  rw [Buffer.add, Buffer.read_write, Buffer.term]
  split
  next here => subst here; cases b.read j <;> rfl
  next => exact Option.map_id'.symm

section
variable (mb vb : Buffer) (off count single : Nat)

theorem array_accumulate : (accumulate mb vb off count single).array = mb.array :=
  forUp_const (fun b : Buffer => b.array) (fun _ _ => ite_const (fun b : Buffer => b.array) (Buffer.array_add _ _ _) rfl)
    _ _ _

theorem accumulate_succ : accumulate mb vb off (count + 1) single =
    if off + count < single then (accumulate mb vb off count single).add (off + count) (vb.term count)
    else accumulate mb vb off count single := by
  rw [accumulate, forUp_last, Nat.zero_add]
  rfl

/-- The mix buffer after the accumulation, word by word. -/
theorem read_accumulate (j : Nat) : (accumulate mb vb off count single).read j = (mb.read j).map fun x =>
    if off ≤ j ∧ j < off + count ∧ j < single then x + vb.term (j - off) else x := by
  induction count with
  | zero =>
    have none : ¬ (off ≤ j ∧ j < off + 0 ∧ j < single) := by omega
    simp only [if_neg none, Option.map_id']
    rfl
  | succ count ih =>
    rw [accumulate_succ]
    split
    next inside =>
      rw [Buffer.read_add, ih, Option.map_map]
      congr 1
      funext x
      by_cases here : j = off + count
      · subst here
        simp [inside]
      · simp only [Function.comp, if_neg here]
        exact if_congr (by omega) rfl rfl
    next beyond =>
      rw [ih]
      congr 1
      funext x
      exact if_congr (by omega) rfl rfl

end

section
variable {s : State}

/-- `MIX.ACC` writes `MB` and moves the sequencer's stage and sample index. -/
theorem State.mixAcc_eq (s : State) : ∃ n : Word, s.mixAcc = (s.setSeq { s.seq with stage := .acc, n := n }).setMb
    (accumulate s.mb s.vb (ms2s s.voice.start.toNat) s.vs.count.toNat s.mix.single.toNat) := by
  obtain ⟨n, h⟩ := ((s.atStage .acc).setMb (accumulate s.mb s.vb (ms2s s.voice.start.toNat) s.vs.count.toNat
    s.mix.single.toNat)).afterLoop_eq_setSeq 0 s.vs.count.toNat
  exact ⟨n, h⟩

theorem exec_mixAcc_of_held (voice : s.accCount ≤ s.vb.words.length)
    (mix : s.accCount = 0 ∨ ms2s s.voice.start.toNat + s.accCount ≤ s.mb.words.length) :
    exec .mixAcc s = .next s.mixAcc := by
  refine needVb_eq_next.2 ⟨decide_eq_true voice, needMb_eq_next.2 ⟨?_, rfl⟩⟩
  rw [Bool.or_eq_true]
  exact mix.imp decide_eq_true decide_eq_true

theorem exec_mixAcc_of_short_voice (short : s.vb.words.length < s.accCount) : exec .mixAcc s = .fault .vbNoValue := by
  have uncovered : s.vb.covers s.accCount = false := decide_eq_false (Nat.not_le.2 short)
  rw [exec, execMixAcc, uncovered]
  rfl

theorem exec_mixAcc_of_short_mix (voice : s.accCount ≤ s.vb.words.length) (adds : 0 < s.accCount)
    (short : s.mb.words.length < ms2s s.voice.start.toNat + s.accCount) : exec .mixAcc s = .fault .mbNoValue := by
  have covered : s.vb.covers s.accCount = true := decide_eq_true voice
  have uncovered : s.mb.covers (ms2s s.voice.start.toNat + s.accCount) = false := decide_eq_false (Nat.not_le.2 short)
  rw [exec, execMixAcc, covered, uncovered, decide_eq_false adds.ne']
  rfl

end

/-- Settles O29: by the loop over the voice's words, behind the two tests of what it reads. -/
theorem mixAcc : Obligations.MixAcc := by
  intro s off single adds
  refine ⟨fun voice mix => ?_, exec_mixAcc_of_short_voice, exec_mixAcc_of_short_mix⟩
  obtain ⟨n, result⟩ := s.mixAcc_eq
  refine ⟨_, exec_mixAcc_of_held voice mix, ?_⟩
  rw [result]
  exact ⟨rfl, array_accumulate _ _ _ _ _, read_accumulate _ _ _ _ _⟩

end Sys2Proof.Machine
end

section
/-! The loop expansion (`45_mixer.md` R306): blocks of the mix buffer copied to a place further on. -/

namespace Sys2Proof.Machine

/-! ### Blocks -/

/-- The buffer `c` is `b` with the `count` words from `src` on copied `shift` words further. -/
def Buffer.Copied (b : Buffer) (src count shift : Nat) (c : Buffer) : Prop :=
  ∀ j, c.read j = if src + shift ≤ j ∧ j < src + shift + count then b.read (j - shift) else b.read j

section
variable {b c : Buffer} {src count shift : Nat}

theorem Buffer.read_copy {i dst : Nat} (from_inside : i < b.words.length) (to_inside : dst < b.words.length) (j : Nat) :
    (b.copy i dst).read j = if j = dst then b.read i else b.read j := by
  rw [Buffer.copy_eq_write b dst from_inside, Buffer.read_write]
  split
  next here => subst here; rw [b.read_eq_term to_inside, b.read_eq_term from_inside]; rfl
  next => rfl

/-- A copied block in the list of words. -/
theorem Buffer.Copied.words (h : b.Copied src count shift c) (room : src + shift + count ≤ b.words.length) :
    c.words = b.words.take (src + shift) ++ (b.words.drop src).take count ++ b.words.drop (src + shift + count) := by
  refine List.ext_getElem? fun j => (h j).trans ?_
  have before : (b.words.take (src + shift)).length = src + shift := List.length_take_of_le (by omega)
  have block : ((b.words.drop src).take count).length = count := by rw [List.length_take, List.length_drop]; omega
  rw [List.append_assoc, List.getElem?_append, before, List.getElem?_append, block, List.getElem?_drop]
  split
  next copied =>
    rw [if_neg (by omega), if_pos (by omega), List.getElem?_take_of_lt (by omega), List.getElem?_drop]
    exact congrArg b.read (by omega)
  next stays =>
    split
    next low => exact (List.getElem?_take_of_lt low).symm
    next high =>
      rw [if_neg (by omega)]
      exact congrArg b.read (by omega)

/-- Ascending, where the block does not reach its copy. -/
theorem Buffer.copied_up (apart : count ≤ shift) (room : src + shift + count ≤ b.words.length) :
    b.Copied src count shift (forUp (fun i b => b.copy i (i + shift)) src count b) := by
  induction count with
  | zero => intro j; rw [if_neg (by omega)]; rfl
  | succ count ih =>
    intro j
    have before := ih (by omega) (by omega)
    have source := (before (src + count)).trans (if_neg (by omega))
    have length : (forUp (fun i (b : Buffer) => b.copy i (i + shift)) src count b).words.length = b.words.length :=
      forUp_const (fun b : Buffer => b.words.length) (fun _ _ => Buffer.length_copy _ _ _) _ _ _
    rw [forUp_last, Buffer.read_copy (by omega) (by omega), source]
    by_cases here : j = src + count + shift
    · rw [if_pos here, if_pos (by omega)]
      exact congrArg b.read (by omega)
    · rw [if_neg here, before]
      exact if_congr (by omega) rfl rfl

/-- Descending, the block may reach into its copy. -/
theorem Buffer.copied_down (room : src + shift + count ≤ b.words.length) :
    b.Copied src count shift (forDown (fun i b => b.copy i (i + shift)) src count b) := by
  induction count generalizing b with
  | zero => intro j; rw [if_neg (by omega)]; rfl
  | succ count ih =>
    intro j
    rw [forDown_succ, ih (by rw [Buffer.length_copy]; omega)]
    split
    next copied => rw [Buffer.read_copy (by omega) (by omega), if_neg (by omega), if_pos (by omega)]
    next stays =>
      rw [Buffer.read_copy (by omega) (by omega)]
      by_cases here : j = src + count + shift
      · rw [if_pos here, if_pos (by omega)]
        exact congrArg b.read (by omega)
      · rw [if_neg here, if_neg (by omega)]

@[simp] theorem Buffer.array_copy (b : Buffer) (i dst : Nat) : (b.copy i dst).array = b.array := by
  unfold Buffer.copy
  split <;> rfl

end

/-! ### The expansion -/

section
variable {b : Buffer} {first last single reps : Nat}

@[simp] theorem Buffer.array_expand (b : Buffer) (single first last reps : Nat) :
    (b.expand single first last reps).array = b.array :=
  (forUp_const (fun b : Buffer => b.array)
    (fun _ _ => forUp_const (fun b : Buffer => b.array) (fun _ _ => Buffer.array_copy _ _ _) _ _ _) _ _ _).trans
      (forDown_const (fun b : Buffer => b.array) (fun _ _ => Buffer.array_copy _ _ _) _ _ _)

/-- The tail moved: up to its new place the words stay. -/
theorem Buffer.words_moveTail {extra : Nat} (ends : last ≤ single) (room : single + extra ≤ b.words.length) :
    (b.moveTail single last extra).words =
      b.words.take (last + extra) ++ (b.words.take single).drop last ++ b.words.drop (single + extra) := by
  have total : last + extra + (single - last) = single + extra := by omega
  rw [List.drop_take, ← total]
  exact (Buffer.copied_down (by omega)).words (by omega)

/-- The region written once more, behind the words `before`. -/
theorem Buffer.words_repeatRegion {before room rest : List Word} {shift : Nat} (apart : last - first ≤ shift)
    (words : b.words = before ++ room ++ rest) (place : before.length = first + shift)
    (fits : room.length = last - first) :
    (b.repeatRegion first last shift).words = before ++ (before.drop first).take (last - first) ++ rest := by
  have length : b.words.length = before.length + room.length + rest.length := by
    rw [words, List.length_append, List.length_append]
  have copied := (Buffer.copied_up (b := b) (src := first) apart (by omega)).words (by omega)
  refine copied.trans ?_
  rw [words]
  congr 1
  · congr 1
    · rw [List.append_assoc, List.take_left' place]
    · rw [List.append_assoc, List.drop_append_of_le_length (by omega),
        List.take_append_of_le_length (by rw [List.length_drop]; omega)]
  · exact List.drop_left' (by rw [List.length_append]; omega)

/-- The region written `k` times behind itself, over as many words. -/
theorem Buffer.words_repeats {played room rest : List Word} {k : Nat} (begins : first < last)
    (ends : played.length = last) (words : b.words = played ++ room ++ rest)
    (fits : room.length = (last - first) * k) :
    (forUp (fun r b => b.repeatRegion first last (r * (last - first))) 1 k b).words =
      played ++ (List.replicate k (played.drop first)).flatten ++ rest := by
  have region : (played.drop first).length = last - first := by rw [List.length_drop, ends]
  induction k generalizing room rest with
  | zero =>
    rw [List.eq_nil_of_length_eq_zero (fits.trans (Nat.mul_zero _))] at words
    exact words
  | succ k ih =>
    have played_k : (played ++ (List.replicate k (played.drop first)).flatten).length =
        first + (1 + k) * (last - first) := by
      rw [List.length_append, List.length_flatten, List.map_replicate, List.sum_replicate, smul_eq_mul, region,
        ends, Nat.add_mul]
      omega
    rw [Nat.mul_succ] at fits
    have step := ih (room := room.take ((last - first) * k)) (rest := room.drop ((last - first) * k) ++ rest)
      (by rw [words, List.append_assoc, List.append_assoc played, ← List.append_assoc (room.take _),
        List.take_append_drop])
      (List.length_take_of_le (by omega))
    rw [← List.append_assoc] at step
    rw [forUp_last, Buffer.words_repeatRegion (by rw [Nat.add_mul]; omega) step played_k
      (by rw [List.length_drop]; omega)]
    congr 1
    rw [List.drop_append_of_le_length (by omega), List.take_left' region, List.replicate_succ', List.flatten_concat,
      List.append_assoc]

/-- The expanded buffer: up to the end of the region, its repeats, the tail, and what lies beyond the total. -/
theorem Buffer.words_expand (begins : first < last) (ends : last ≤ single)
    (fits : single + (last - first) * (reps - 1) ≤ b.words.length) :
    (b.expand single first last reps).words =
      b.words.take last ++ (List.replicate (reps - 1) ((b.words.take last).drop first)).flatten
        ++ (b.words.take single).drop last ++ b.words.drop (single + (last - first) * (reps - 1)) := by
  have moved := Buffer.words_moveTail ends fits
  rw [List.take_add, List.append_assoc] at moved
  rw [Buffer.expand, List.append_assoc _ (List.drop _ (List.take _ _))]
  refine Buffer.words_repeats begins (List.length_take_of_le (by omega)) moved ?_
  rw [List.length_take, List.length_drop]
  omega

end

/-! ### The operation -/

section
variable {s : State}

/-- `MIX.LOOP` performed writes `MB` and moves the sequencer's stage and sample index. -/
theorem State.mixLoop_eq (valid : s.mix.loopValid = true) (repeats : 1 < s.mix.reps.toNat) : ∃ n : Word,
    s.mixLoop = (s.setSeq { s.seq with stage := .loop, n := n }).setMb
      (s.mb.expand s.mix.single.toNat s.cfg.loopBegin.toNat s.cfg.loopEnd.toNat s.mix.reps.toNat) := by
  obtain ⟨n, h⟩ := ((s.atStage .loop).setMb (s.mb.expand s.mix.single.toNat s.cfg.loopBegin.toNat s.cfg.loopEnd.toNat
    s.mix.reps.toNat)).afterLoop_eq_setSeq s.cfg.loopBegin.toNat (s.cfg.loopEnd.toNat - s.cfg.loopBegin.toNat)
  exact ⟨n, (if_pos ⟨valid, repeats⟩).trans h⟩

/-- `MIX.LOOP` completes where `MB` holds the single pass and a valid region lies in it. -/
theorem exec_mixLoop_of_held (ends : s.mix.loopValid = true → s.cfg.loopEnd.toNat ≤ s.mix.single.toNat)
    (held : s.mix.single.toNat ≤ s.mb.words.length) : exec .mixLoop s = .next s.mixLoop := by
  have single : s.mb.covers s.mix.single.toNat = true := decide_eq_true held
  refine needMb_eq_next.2 ⟨?_, rfl⟩
  cases valid : s.mix.loopValid with
  | false => rfl
  | true =>
    have region : s.mb.covers s.cfg.loopEnd.toNat = true := decide_eq_true ((ends valid).trans held)
    simp [State.loopValued, single, region]

theorem exec_mixLoop_of_once (once : s.mix.loopValid = false ∨ s.mix.reps.toNat ≤ 1) : exec .mixLoop s = .next s := by
  have reads_nothing : (!s.mix.loopValid || decide (s.mix.reps.toNat ≤ 1)) = true := by simpa using once
  have stays : s.mixLoop = s := if_neg fun ⟨valid, repeats⟩ =>
    once.elim (fun invalid => by simp [invalid] at valid) (Nat.not_le.2 repeats)
  rw [exec, execMixLoop, reads_nothing, stays]
  rfl

theorem exec_mixLoop_of_short (valid : s.mix.loopValid = true) (repeats : 1 < s.mix.reps.toNat)
    (begins : s.cfg.loopBegin.toNat < s.cfg.loopEnd.toNat) (ends : s.cfg.loopEnd.toNat ≤ s.mix.single.toNat)
    (short : s.mb.words.length < s.mix.single.toNat) : exec .mixLoop s = .fault .mbNoValue := by
  have unheld : s.loopValued = false := by
    simp only [State.loopValued, Buffer.covers, Bool.and_eq_false_iff, Bool.or_eq_false_iff, decide_eq_false_iff_not]
    omega
  rw [exec, execMixLoop, valid, decide_eq_false (Nat.not_le.2 repeats), unheld]
  rfl

end

/-- Settles O30: the tail is one block moved, each repeat one block copied. -/
theorem mixLoop : Obligations.MixLoop := by
  intro s first last single reps old total
  refine ⟨exec_mixLoop_of_once, fun valid repeats begins ends fits => ?_, exec_mixLoop_of_short⟩
  obtain ⟨n, result⟩ := State.mixLoop_eq valid repeats
  refine ⟨_, exec_mixLoop_of_held (fun _ => ends) ((Nat.le_add_right _ _).trans fits), ?_⟩
  rw [result]
  exact ⟨rfl, Buffer.array_expand _ _ _ _ _, Buffer.words_expand begins ends fits⟩

end Sys2Proof.Machine
end

section
/-! The render as its parts in order (`45_mixer.md` R308; log 16, log 17). -/

namespace Sys2Proof.Machine

/-! ### One voice -/

/-- Whether the platform supplies the buffer of a voice decides how its setup ends. -/
theorem voiceSetup_ok {P : Params} {s : State} (supplied : s.voice.supplied P = true) :
    ∃ a, voiceSetup P s = .ok ((), a) := by
  by_cases short : s.voice.duration.toNat < P.minDuration
  · exact ⟨_, voiceSetup_of_short short⟩
  · exact ⟨_, voiceSetup_of_supplied short ((Voice.supplied_of_long short).symm.trans supplied)⟩

theorem voiceSetup_fatal {P : Params} {s : State} (unsupplied : s.voice.supplied P = false) :
    ∃ a, voiceSetup P s = .error (.fatal a) := by
  by_cases short : s.voice.duration.toNat < P.minDuration
  · simp [Voice.supplied_of_short short] at unsupplied
  · exact ⟨_, voiceSetup_of_unsupplied short ((Voice.supplied_of_long short).symm.trans unsupplied)⟩

section
variable {s : State}

theorem exec_voiceRender (s : State) : exec .voiceRender s = finish (voiceRender Config.params s) := rfl

theorem voiceRender_fatal (unsupplied : s.voice.supplied Config.params = false) :
    ∃ t, voiceRender Config.params s = .error (.fatal t) := by
  obtain ⟨a, setup⟩ := voiceSetup_fatal unsupplied
  exact ⟨a, by rw [voiceRender_eq, setup]; rfl⟩

/-- A rendered voice has all its samples in the voice buffer. -/
theorem covered_of_exec_voiceRender {t : State} (supplied : s.voice.supplied Config.params = true)
    (run : exec .voiceRender s = .next t) : t.covered := by
  obtain ⟨u, same, result⟩ := Sys2Proof.voiceResult s
  cases run.symm.trans same
  rw [if_pos supplied] at result
  obtain ⟨-, -, -, samples⟩ := result
  split at samples
  · obtain ⟨short, -⟩ := samples
    rw [State.covered, short]
    exact Nat.zero_le _
  · obtain ⟨-, length, -⟩ := samples
    exact length.ge

theorem voiceRender_ok (supplied : s.voice.supplied Config.params = true) :
    ∃ t, voiceRender Config.params s = .ok ((), t) ∧ t.frame = s.frame ∧ t.covered := by
  obtain ⟨a, setup⟩ := voiceSetup_ok supplied
  have render : ∃ t, voiceRender Config.params s = .ok ((), t) := ⟨_, by rw [voiceRender_eq, setup]; rfl⟩
  obtain ⟨t, render⟩ := render
  have kept := voiceRender_keeps (k := s.frame) Config.params s rfl
  rw [render] at kept
  cases kept with
  | done _ frame => exact ⟨t, render, frame, covered_of_exec_voiceRender supplied (congrArg finish render)⟩

/-- The mix buffer holds the single pass. -/
abbrev State.passHeld (s : State) : Prop := s.mix.single.toNat ≤ s.mb.words.length

theorem State.passHeld_of_frame {t : State} (frame : t.frame = s.frame) (held : s.passHeld) : t.passHeld := by
  have mix : t.mix = s.mix := congrArg Frame.mix frame
  have length : t.mb.words.length = s.mb.words.length := congrArg Frame.mbLength frame
  rw [State.passHeld, mix, length]
  exact held

/-- A slot holds the same voice while the frame stays. -/
theorem State.voiceOf_of_frame {t : State} (frame : t.frame = s.frame) (v : Fin 10) : t.voiceOf v = s.voiceOf v :=
  congrArg (fun k : Frame => (vget k.outer.cfg.slot v).voice) frame

theorem exec_mixAcc_of_covered (covered : s.covered) (held : s.passHeld) : exec .mixAcc s = .next s.mixAcc := by
  have adds : s.accCount = min s.vs.count.toNat (s.mix.single.toNat - ms2s s.voice.start.toNat) := rfl
  exact exec_mixAcc_of_held (by omega) (by omega)

end

/-! ### The voices -/

/-- A voice of a render as operations: its render, the accumulation, the release of its buffer. -/
def mixVoice (v : Fin 10) (a : State) : Host.Outcome State Fault Refusal :=
  andThen (exec .voiceRender (a.setSeq { a.seq with voice := v })) fun b =>
    andThen (exec .mixAcc b) fun c => .next (if c.vs.count = 0 then c else c.releaseVb Config.params)

/-- The voices of a render as operations. -/
def mixEach (l : List (Fin 10)) (a : State) : Host.Outcome State Fault Refusal :=
  l.foldl (fun o v => andThen o (mixVoice v)) (.next a)

/-- What follows the voices that have their buffers: the loop and the clip, or the voice that has none. -/
def mixRest (b : State) : List (Fin 10) → Host.Outcome State Fault Refusal
  | [] => andThen (exec .mixLoop b) fun c => andThen (exec .mixClip c) fun d => .next (d.setOutLen d.mix.total)
  | v :: _ => exec .voiceRender (b.setSeq { b.seq with voice := v })

section
variable {a : State}

theorem mixVoice_run {v : Fin 10} (supplied : (a.voiceOf v).supplied Config.params = true) (held : a.passHeld) :
    ∃ b, mixVoice v a = .next b ∧ b.frame = a.frame ∧
      ∀ rest, mixVoices Config.params (v :: rest) a = mixVoices Config.params rest b := by
  obtain ⟨t, render, frame, covered⟩ := voiceRender_ok (s := a.atVoice v) supplied
  refine ⟨t.mixIn Config.params, ?_, (State.frame_mixIn _ t).trans frame, fun rest => ?_⟩
  · change andThen (finish (voiceRender Config.params (a.atVoice v))) _ = _
    rw [render]
    change andThen (exec .mixAcc t) _ = _
    rw [exec_mixAcc_of_covered covered (State.passHeld_of_frame frame held)]
    rfl
  · rw [mixVoices_cons, render]
    rfl

theorem mixEach_run {l : List (Fin 10)} (supplied : ∀ v ∈ l, (a.voiceOf v).supplied Config.params = true)
    (held : a.passHeld) : ∃ b, mixEach l a = .next b ∧ b.frame = a.frame ∧
      ∀ rest, mixVoices Config.params (l ++ rest) a = mixVoices Config.params rest b := by
  induction l generalizing a with
  | nil => exact ⟨a, rfl, rfl, fun _ => rfl⟩
  | cons v l ih =>
    obtain ⟨b, first, frame, voices⟩ := mixVoice_run (supplied v List.mem_cons_self) held
    obtain ⟨c, others, frame', voices'⟩ := ih (a := b)
      (fun w member => State.voiceOf_of_frame frame w ▸ supplied w (List.mem_cons_of_mem _ member))
      (State.passHeld_of_frame frame held)
    refine ⟨c, ?_, frame'.trans frame, fun rest => (voices _).trans (voices' rest)⟩
    rw [mixEach, List.foldl_cons, andThen_next, first]
    exact others

/-! ### What follows the voices -/

theorem mixEnd_run (loop : a.mix.loopValid = true → a.cfg.loopEnd.toNat ≤ a.mix.single.toNat) (held : a.passHeld)
    (total : a.mix.total.toNat ≤ a.mb.words.length) : mixRest a [] = .next a.mixEnd := by
  have covered : a.mixLoop.mix.total.toNat ≤ a.mixLoop.mb.words.length := by
    have mix : a.mixLoop.mix = a.mix := congrArg Frame.mix a.frame_mixLoop
    have length : a.mixLoop.mb.words.length = a.mb.words.length := congrArg Frame.mbLength a.frame_mixLoop
    rw [mix, length]
    exact total
  rw [mixRest, exec_mixLoop_of_held loop held, andThen_next, exec_mixClip_of_covered covered]
  rfl

/-- The parts of a render that has its lengths and its buffer are the render. -/
theorem mixParts_run (loop : a.mix.loopValid = true → a.cfg.loopEnd.toNat ≤ a.mix.single.toNat) (held : a.passHeld)
    (total : a.mix.total.toNat ≤ a.mb.words.length) (order : List (Fin 10)) {p : Fin 10 → Bool}
    (supplied : ∀ v, p v = (a.voiceOf v).supplied Config.params) :
    andThen (mixEach (order.takeWhile p) a) (fun b => mixRest b (order.dropWhile p)) =
      finish ((mixVoices Config.params order a).bind fun q => .ok ((), q.2.mixEnd)) := by
  obtain ⟨b, each, frame, voices⟩ := mixEach_run (l := order.takeWhile p)
    (fun v member => (supplied v).symm.trans (List.mem_takeWhile_imp member)) held
  have split_order := voices (order.dropWhile p)
  rw [List.takeWhile_append_dropWhile] at split_order
  rw [each, andThen_next, split_order]
  cases rest : order.dropWhile p with
  | nil =>
    have mix : b.mix = a.mix := congrArg Frame.mix frame
    have cfg : b.cfg = a.cfg := congrArg (fun k : Frame => k.outer.cfg) frame
    have length : b.mb.words.length = a.mb.words.length := congrArg Frame.mbLength frame
    rw [mixEnd_run (by rwa [mix, cfg]) (State.passHeld_of_frame frame held) (by rwa [mix, length])]
    rfl
  | cons v others =>
    have unsupplied : (b.voiceOf v).supplied Config.params = false := by
      have stops := List.head?_dropWhile_not p order
      rw [rest] at stops
      rw [State.voiceOf_of_frame frame, ← supplied]
      simpa using stops
    obtain ⟨t, fatal⟩ := voiceRender_fatal (s := b.atVoice v) unsupplied
    rw [mixVoices_cons, fatal]
    exact congrArg finish fatal

end

/-! ### The render -/

section
variable {P : Params} {s : State}

/-- The state of a render that has its lengths, with its buffer. -/
def State.withMix (P : Params) (s : State) : State :=
  (s.setMb (acquired P s.mix.total.toNat s.pool)).setPool (poolAfter P s.mix.total.toNat s.pool)

theorem mixRender_of_empty (empty : tenIndices.any s.isValid = false) : mixRender P s = .ok ((), s.setOutLen 0) :=
  if_neg (by simp [empty])

theorem mixRender_of_fits (present : tenIndices.any s.isValid = true) (fits : s.mixLen.outFits P = true)
    (supplied : P.supplies s.mixLen.mix.total.toNat = true) : mixRender P s =
      (mixVoices P (tenIndices.filter s.isValid) (s.mixLen.withMix P)).bind fun q => .ok ((), q.2.mixEnd) := by
  refine (if_pos present).trans ((if_pos fits).trans ?_)
  rw [mixBody_eq, acquireMb_eq, if_pos supplied]
  rfl

/-- An output that is too long, or for which there is no buffer, raises `E_FAIL`. -/
theorem mixRender_of_unfit (present : tenIndices.any s.isValid = true)
    (unfit : ¬ (s.mixLen.outFits P = true ∧ P.supplies s.mixLen.mix.total.toNat = true)) :
    mixRender P s = .error (.fatal (s.mixLen.fatalEntry .fail)) := by
  refine (if_pos present).trans ?_
  by_cases fits : s.mixLen.outFits P = true
  · refine (if_pos fits).trans ?_
    rw [mixBody_eq, acquireMb_eq, if_neg fun supplied => unfit ⟨fits, supplied⟩]
    rfl
  · exact if_neg fits

theorem mixRender_no_fault (P : Params) (s : State) (f : Fault) : mixRender P s ≠ .error (.fault f) := by
  cases present : tenIndices.any s.isValid with
  | false => rw [mixRender_of_empty present]; nofun
  | true =>
    by_cases fits : s.mixLen.outFits P = true ∧ P.supplies s.mixLen.mix.total.toNat = true
    · rw [mixRender_of_fits present fits.1 fits.2]
      cases voices : mixVoices P (tenIndices.filter s.isValid) (s.mixLen.withMix P) with
      | ok q => nofun
      | error e => exact fun h => mixVoices_no_fault P _ _ f (voices.trans h)
    · rw [mixRender_of_unfit present fits]; nofun

/-- The total of an output that fits does not wrap (log 16). -/
theorem State.toNat_total (fits : s.mixLen.outFits P = true) :
    s.mixLen.mix.total.toNat = s.cfg.exactTotal s.mixLen.mix.single.toNat s.mixLen.mix.reps.toNat := by
  rw [State.outFits, Machine.outFits, Bool.and_eq_true, decide_eq_true_eq] at fits
  rw [State.total_eq, BitVec.toNat_ofNat]
  exact Nat.mod_eq_of_lt fits.1

theorem State.passHeld_withMix (fits : s.mixLen.outFits P = true) : (s.mixLen.withMix P).passHeld := by
  have length : (s.mixLen.withMix P).mb.words.length = s.mixLen.mix.total.toNat := length_acquired P _ _
  rw [State.passHeld, length, State.toNat_total fits]
  exact Nat.le_add_right _ _

end

end Sys2Proof.Machine

namespace Sys2Proof

open Machine

/-- Settles O31: where the output fits and has its buffer, the buffer holds the single pass and the total, so that every
operation after the voices' own completes. -/
theorem mixRender : Obligations.MixRender := by
  intro s one
  cases present : tenIndices.any s.isValid with
  | false =>
    refine ⟨s.setOutLen 0, congrArg finish (mixRender_of_empty present), ?_⟩
    rw [← List.not_any_eq_all_not, present]
    rfl
  | true =>
    by_cases fits : s.mixLen.outFits Config.params = true ∧ Config.params.supplies s.mixLen.mix.total.toNat = true
    · obtain ⟨fits, supplied⟩ := fits
      have parts := mixParts_run (a := s.mixLen.withMix Config.params) (fun valid => (s.loopValid_iff.1 valid).2)
        (State.passHeld_withMix fits) (length_acquired _ _ _).ge (tenIndices.filter s.isValid) (fun _ => rfl)
      rw [← mixRender_of_fits present fits supplied] at parts
      obtain ⟨t, run⟩ := finish_next (mixRender_no_fault Config.params s)
      refine ⟨t, run, ?_⟩
      rw [← List.not_any_eq_all_not, present]
      refine ⟨s.mixLen, exec_mixLen s, ?_⟩
      rw [if_pos ⟨fits, supplied⟩]
      exact parts.trans run
    · refine ⟨s.mixLen.fatalEntry .fail, congrArg finish (mixRender_of_unfit present fits), ?_⟩
      rw [← List.not_any_eq_all_not, present]
      exact ⟨s.mixLen, exec_mixLen s, by rw [if_neg fits]⟩

end Sys2Proof
end

section
/-! The commands: how `CMD.LOAD` ends, the reserved pole counts that can end it, and what a command that is not accepted
changes (`60_exceptions.md` R347, R351 to R353, R355, R360). -/

namespace Sys2Proof.Machine

/-! ### `CMD.LOAD` -/

section
variable {s u : State}

theorem exec_cmdLoad (s : State) : exec .cmdLoad s = finish (cmdLoad s) := rfl

theorem exec_cmdLoad_of_loaded (accepted : s.acceptsWork = true)
    (load : cfgLoad (s.beginCommand .loading) = .ok ((), u)) : exec .cmdLoad s = .next u.endLoad := by
  rw [exec_cmdLoad, cmdLoad_of_accepted accepted, load]
  rfl

theorem exec_cmdLoad_of_fatal (accepted : s.acceptsWork = true)
    (load : cfgLoad (s.beginCommand .loading) = .error (.fatal u)) : exec .cmdLoad s = .next u := by
  rw [exec_cmdLoad, cmdLoad_of_accepted accepted, load]
  rfl

end

/-- Settles O48: the load inside the command ends with a legal configuration, or by a reserved count in LOADING, and
writes nothing else from the start of the command. -/
theorem commandLoad : Obligations.CommandLoad := by
  intro s accepted written
  rcases cfgLoad_ends (s := s.beginCommand .loading) written with ⟨u, load, loaded⟩ | ⟨u, frame, byte, load⟩
  · obtain ⟨legal, frame, -, -⟩ := loaded
    refine ⟨u.endLoad, exec_cmdLoad_of_loaded accepted load, ?_, rfl, ?_, .inl ⟨rfl, ?_, ?_, ?_, legal⟩, fun _ => rfl⟩
    all_goals
      rw [frame]
      rfl
  · refine ⟨u.fatalEntry .reserved, exec_cmdLoad_of_fatal accepted load, ?_, rfl, rfl, .inr ⟨rfl, rfl, rfl, rfl, ?_⟩,
      fun legal => absurd legal byte⟩
    · rw [frame]
      rfl
    · have cleared : (u.fatalEntry .reserved).cfg = u.cfg.cleared := by
        rw [frame]
        rfl
      have empty (v : Fin 10) : (u.fatalEntry .reserved).isValid v = false := by
        rw [State.isValid, cleared, vget_cleared_slot]
        rfl
      rw [cleared]
      exact ⟨empty, rfl, rfl⟩

/-! ### Reserved pole counts -/

/-- Settles O40: neither the operation nor the row reads beyond the byte that names a reserved count. -/
theorem reservedPoleCount : Obligations.ReservedPoleCount := by
  intro s b reserved gone after
  have entry : after = (s.advance 1).fatalEntry .reserved := rfl
  rw [entry]
  refine ⟨fun byte => ?_, fun g h m => ?_⟩
  · have raised : cfgFilterbody s.ldr.slot s = .error (.fatal ((s.advance 1).fatalEntry .reserved)) := by
      rw [cfgFilterbody, op_bind_error _ _ (readFilterHeader_reserved byte reserved)]
    exact congrArg finish raised
  · exact congrArg Host.Outcome.next (if_neg fun legal => countsLegal_byte.1 legal reserved)

/-! ### Acceptance -/

section
variable {s : State}

theorem State.acceptsWork_iff : s.acceptsWork = true ↔
    s.status.busy = false ∧ (s.seq.state = .idle ∨ s.seq.state = .done) := by
  simp [State.acceptsWork]

theorem State.acceptsReset_iff : s.acceptsReset = true ↔
    s.status.busy = false ∧ (s.seq.state = .idle ∨ s.seq.state = .done ∨ s.seq.state = .error) := by
  simp [State.acceptsReset, or_assoc]

theorem State.hostBusy_iff : s.hostBusy = true ↔ s.status.busy = true ∨ s.pending ≠ none := by
  rw [State.hostBusy, Bool.or_eq_true, Option.isSome_iff_ne_none]

/-- A code that the host may write to `CMD` is that of a command in one of its states (`30_encoding.md` R113). -/
theorem State.acceptsCommand_iff (code : Byte) : s.acceptsCommand code = true ↔ s.hostBusy = false ∧
    ((code = 0x01 ∨ code = 0x02) ∧ s.acceptsWork = true ∨ code = 0x03 ∧ s.acceptsReset = true) := by
  rw [State.acceptsCommand, Bool.and_eq_true, Bool.not_eq_true']
  refine and_congr_right fun _ => ?_
  split
  next load => simp [load]
  next no_load =>
    split
    next render => simp [render]
    next no_render =>
      split
      next reset => simp [reset]
      next no_reset => exact iff_of_false Bool.false_ne_true (by tauto)

/-! ### Accepted and refused -/

theorem exec_cmdReset_of_accepted (accepted : s.acceptsReset = true) : exec .cmdReset s = .next s.blockReset :=
  congrArg Host.Outcome.next (if_pos accepted)

theorem exec_cmdReset_of_refused (refused : s.acceptsReset = false) : exec .cmdReset s = .next s :=
  congrArg Host.Outcome.next (if_neg (Bool.eq_false_iff.1 refused))

theorem hostCommand_of_accepted {code : Byte} (accepted : s.acceptsCommand code = true) :
    s.hostCommand code = (s.setCmd code).setPending (some .operation) := if_pos accepted

theorem hostCommand_of_refused {code : Byte} (refused : ¬ s.acceptsCommand code = true) : s.hostCommand code = s :=
  if_neg refused

/-- The states in which the host may write `CFG.*` and `IMG` (`60_exceptions.md` R352). -/
theorem State.hostMayWrite_iff : s.hostMayWrite = true ↔
    s.hostBusy = false ∧ (s.seq.state = .idle ∨ s.seq.state = .done ∨ s.seq.state = .error) := by
  simp [State.hostMayWrite, or_assoc]

theorem hostWrites_of_refused (refused : ¬ s.hostMayWrite = true) :
    (∀ w, s.hostWrite w = s) ∧ ∀ bytes, s.hostImage bytes = s := ⟨fun _ => if_neg refused, fun _ => if_neg refused⟩

theorem hostStatus_of_busy (busy : s.hostBusy = true) : s.hostStatus.busy = true := by
  rw [State.hostStatus]
  split
  next => rfl
  next none => simpa [State.hostBusy, none] using busy

end

/-- Settles O53: each clause from the test that accepts or refuses. -/
theorem commandResetAndRefused : Obligations.CommandResetAndRefused := by
  intro s
  refine ⟨fun accepted => ⟨_, exec_cmdReset_of_accepted accepted, rfl, rfl, rfl, rfl, rfl, fun v => ?_, rfl⟩,
    exec_cmdReset_of_refused, fun refused => ⟨congrArg finish (cmdLoad_of_refused refused),
      congrArg finish (cmdRender_of_refused refused)⟩, fun failed => ⟨?_, fun free => ?_⟩, fun busy => ⟨?_, ?_⟩,
    fun code => ?_, fun running => hostWrites_of_refused ?_, fun busy => ?_⟩
  · show (vget (Vector.replicate 10 Slot.blank) v).valid = false
    rw [vget, Vector.getElem_replicate]
    rfl
  · rw [← Bool.not_eq_true, State.acceptsWork_iff, failed]
    simp
  · exact State.acceptsReset_iff.2 ⟨free, .inr (.inr failed)⟩
  · rw [← Bool.not_eq_true, State.acceptsWork_iff, busy]
    simp
  · rw [← Bool.not_eq_true, State.acceptsReset_iff, busy]
    simp
  · have taken : s.acceptsCommand code = true ↔ s.status.busy = false ∧ s.pending = none ∧
        ((code = 0x01 ∨ code = 0x02) ∧ (s.seq.state = .idle ∨ s.seq.state = .done) ∨
          code = 0x03 ∧ (s.seq.state = .idle ∨ s.seq.state = .done ∨ s.seq.state = .error)) := by
      rw [State.acceptsCommand_iff, State.acceptsWork_iff, State.acceptsReset_iff, ← Bool.not_eq_true,
        State.hostBusy_iff, not_or, not_not, Bool.not_eq_true]
      tauto
    exact ⟨fun h => hostCommand_of_accepted (taken.2 h), fun h => hostCommand_of_refused (mt taken.1 h)⟩
  · rw [State.hostMayWrite_iff]
    rcases running with state | state <;> simp [state]
  · have busy := State.hostBusy_iff.2 busy
    have refused : ¬ s.hostMayWrite = true := by simp [State.hostMayWrite_iff, busy]
    obtain ⟨writes, images⟩ := hostWrites_of_refused refused
    exact ⟨hostStatus_of_busy busy, fun code => hostCommand_of_refused (by simp [State.acceptsCommand_iff, busy]),
      writes, images⟩

end Sys2Proof.Machine
end

section
/-! Two runs side by side: a relation that the bodies of two loops keep, and the buffers, whose operations look at the
words alone, whatever array the pool gave (`45_mixer.md` R331, R334). -/

namespace Sys2Proof.Machine

/-! ### Loops -/

section
variable {σ τ : Type}

theorem forUp_related {R : Nat → σ → τ → Prop} {f : Nat → σ → σ} {g : Nat → τ → τ}
    (next : ∀ n s t, R n s t → R (n + 1) (f n s) (g n t)) {start : Nat} (count : Nat) {s : σ} {t : τ}
    (first : R start s t) : R (start + count) (forUp f start count s) (forUp g start count t) := by
  induction count generalizing start s t with
  | zero => exact first
  | succ count ih =>
    rw [forUp_succ, forUp_succ, Nat.add_comm count 1, ← Nat.add_assoc]
    exact ih (next _ _ _ first)

theorem forDown_related {R : σ → τ → Prop} {f : Nat → σ → σ} {g : Nat → τ → τ}
    (next : ∀ n s t, R s t → R (f n s) (g n t)) (start count : Nat) {s : σ} {t : τ} (first : R s t) :
    R (forDown f start count s) (forDown g start count t) := by
  induction count generalizing s t with
  | zero => exact first
  | succ count ih => exact ih (next _ _ _ first)

end

/-! ### Buffers -/

section
variable {b c : Buffer} (same : b.words = c.words)
include same

theorem Buffer.read_congr (i : Nat) : b.read i = c.read i := by rw [Buffer.read, same, Buffer.read]

theorem Buffer.term_congr (i : Nat) : b.term i = c.term i := by rw [Buffer.term, Buffer.read_congr same, Buffer.term]

theorem Buffer.words_write_congr (i : Nat) (x : Word) : (b.write i x).words = (c.write i x).words :=
  congrArg (·.set i x) same

theorem Buffer.words_add_congr (i : Nat) (x : Word) : (b.add i x).words = (c.add i x).words := by
  rw [Buffer.add, Buffer.term_congr same, Buffer.words_write_congr same, Buffer.add]

theorem Buffer.words_copy_congr (src dst : Nat) : (b.copy src dst).words = (c.copy src dst).words := by
  rw [Buffer.copy, Buffer.copy, Buffer.read_congr same]
  split
  next x _ => exact Buffer.words_write_congr same dst x
  next => exact same

theorem Buffer.words_clip_congr (n : Nat) : (b.clip n).words = (c.clip n).words := congrArg (clipBelow n) same

theorem Buffer.words_echo_congr (d count : Nat) (mix : BitVec 15) :
    (b.echo d count mix).words = (c.echo d count mix).words :=
  forUp_related (R := fun _ (b c : Buffer) => b.words = c.words) (fun n b c same => by
    rw [Buffer.term_congr same]
    exact Buffer.words_add_congr same _ _) _ same

theorem Buffer.words_repeatRegion_congr (first last shift : Nat) :
    (b.repeatRegion first last shift).words = (c.repeatRegion first last shift).words :=
  forUp_related (R := fun _ (b c : Buffer) => b.words = c.words)
    (fun i _ _ same => Buffer.words_copy_congr same i (i + shift)) _ same

theorem Buffer.words_expand_congr (single first last reps : Nat) :
    (b.expand single first last reps).words = (c.expand single first last reps).words := by
  refine forUp_related (R := fun _ (b c : Buffer) => b.words = c.words)
    (fun r _ _ same => Buffer.words_repeatRegion_congr same first last (r * (last - first))) _ ?_
  exact forDown_related (R := fun b c : Buffer => b.words = c.words)
    (fun i _ _ same => Buffer.words_copy_congr same i (i + (last - first) * (reps - 1))) _ _ same

/-- The accumulation of a voice looks at the words of both buffers alone. -/
theorem words_accumulate_congr {x y : Buffer} (voice : x.words = y.words) (off count single : Nat) :
    (accumulate b x off count single).words = (accumulate c y off count single).words := by
  refine forUp_related (R := fun _ (b c : Buffer) => b.words = c.words) (fun i b c same => ?_) _ same
  rw [Buffer.term_congr voice]
  split
  · exact Buffer.words_add_congr same _ _
  · exact same

end

end Sys2Proof.Machine
end

section
/-! Two states in which a voice is rendered: what each stage reads is the same in both, and so is what it leaves
(`70_reset_and_hazards.md` R381, R382; `45_mixer.md` R334). Registers of records that the voice does not have may differ
(log 33). -/

namespace Sys2Proof.Machine

/-! ### What is the same in both -/

/-- What no operation of a voice writes and a render reads: the slots, the loop region, the mixer registers and the
words of the mix buffer. -/
structure Score where
  slot : Vector Slot 10
  loopBegin : BitVec 16
  loopEnd : BitVec 16
  mix : MixRegs
  words : List Word

def State.score (s : State) : Score := ⟨s.cfg.slot, s.cfg.loopBegin, s.cfg.loopEnd, s.mix, s.mb.words⟩

/-- The derived registers that a voice uses. -/
structure VoiceRegs.Alike (V : Voice) (r q : VoiceRegs) : Prop where
  count : r.count = q.count
  delay : ∀ i : Fin 10, i.val < V.partials.length → vget r.delay i = vget q.delay i
  vol : ∀ i : Fin 10, i.val < V.partials.length → vget r.vol i = vget q.vol i
  inc : ∀ i : Fin 10, i.val < V.partials.length → vget r.inc i = vget q.inc i
  base : ∀ i : Fin 10, i.val < V.partials.length → vget r.base i = vget q.base i
  vib : V.pitchLfo.present = true → r.vibStep = q.vibStep ∧ r.vibBase = q.vibBase
  trem : V.amplitudeLfo.present = true → r.tremStep = q.tremStep ∧ r.tremBase = q.tremBase
  echoDelay : r.echoDelay = q.echoDelay

/-- The evaluators that the synthesis of a voice uses. -/
structure EnvBank.Alike (V : Voice) (b c : EnvBank) : Prop where
  freq : b.freq = c.freq
  amp : b.amp = c.amp
  vib : V.pitchLfo.present = true → b.vibr = c.vibr ∧ b.vibd = c.vibd
  trem : V.amplitudeLfo.present = true → b.trmr = c.trmr ∧ b.trmd = c.trmd

/-- The coefficients that a filter uses. -/
structure FltRegs.Alike (F : Filter) (r q : FltRegs) : Prop where
  gain : r.g = q.g
  ff : ∀ k : Fin 8, k.val < 2 * F.ff.count.toNat → vget r.ff k = vget q.ff k
  fb : ∀ k : Fin 8, k.val < 2 * F.fb.count.toNat → vget r.fb k = vget q.fb k

/-- Both states render the voice `V` over the same score, with the same words in the voice buffer. -/
structure State.Paired (V : Voice) (s u : State) : Prop where
  score : s.score = u.score
  left : s.voice = V
  right : u.voice = V
  words : s.vb.words = u.vb.words

/-- The voice has its derived registers. -/
structure State.Prepared (V : Voice) (s u : State) : Prop extends State.Paired V s u where
  regs : s.vs.Alike V u.vs

/-- In the synthesis: the evaluators and the oscillators. -/
structure State.Sounding (V : Voice) (s u : State) : Prop extends State.Prepared V s u where
  env : s.env.Alike V u.env
  osc : s.osc = u.osc

/-- In the gate: its evaluators, its counter and its flag. -/
structure State.Gating (V : Voice) (s u : State) : Prop extends State.Prepared V s u where
  silence : s.env.gsil = u.env.gsil
  duration : s.env.gdur = u.env.gdur
  ctr : s.gate.ctr = u.gate.ctr
  muted : s.gate.muted = u.gate.muted

/-- In the filter before sample `n`: its evaluator, and after the first sample its coefficients. -/
structure State.Filtering (V : Voice) (n : Nat) (s u : State) : Prop extends State.Prepared V s u where
  cut : V.filter.cutoffPresent = true → s.env.cut = u.env.cut
  coefs : 0 < n → s.flt.Alike V.filter u.flt

section
variable {P : Params} {V : Voice} {s u : State} {f a : Word} {i : Fin 10} {n : Nat}

theorem State.Paired.voice_eq (h : s.Paired V u) : s.voice = u.voice := h.left.trans h.right.symm

/-! ### The synthesis -/

theorem State.Sounding.sampledFreq (h : s.Sounding V u) : s.sampledFreq P = u.sampledFreq P := by
  simp only [State.sampledFreq, h.left, h.right, h.regs.count, h.env.freq, h.osc]
  split
  next present =>
    obtain ⟨-, depth⟩ := h.env.vib present
    rw [depth]
  next => rfl

theorem State.Sounding.sampledAmpl (h : s.Sounding V u) : s.sampledAmpl P = u.sampledAmpl P := by
  simp only [State.sampledAmpl, h.left, h.right, h.regs.count, h.env.amp, h.osc]
  split
  next present =>
    obtain ⟨-, depth⟩ := h.env.trem present
    rw [depth]
  next => rfl

theorem State.Sounding.beforeTremolo (h : s.Sounding V u) : s.beforeTremolo.Sounding V u.beforeTremolo where
  toPrepared := ⟨⟨h.score, h.left, h.right, h.words⟩, h.regs⟩
  env := by
    refine ⟨?_, ?_, fun present => ?_, h.env.trem⟩ <;>
      simp only [State.beforeTremolo, State.setOsc_env, State.setEnv_env, h.left, h.right, h.regs.count, h.env.freq,
        h.env.amp]
    obtain ⟨rate, depth⟩ := h.env.vib present
    rw [rate, depth]
    exact ⟨rfl, rfl⟩
  osc := by
    simp only [State.beforeTremolo, State.setOsc_osc, h.left, h.right, h.regs.count, h.osc]
    split
    next present =>
      obtain ⟨rate, -⟩ := h.env.vib present
      obtain ⟨step, base⟩ := h.regs.vib present
      rw [rate, step, base]
    next => rfl

theorem State.Sounding.beforePartials (h : s.Sounding V u) : s.beforePartials.Sounding V u.beforePartials where
  toPrepared := ⟨⟨h.score, h.left, h.right, h.words⟩, h.regs⟩
  env := by
    obtain ⟨freq, amp, vib, -⟩ := h.beforeTremolo.env
    refine ⟨freq, amp, vib, fun present => ?_⟩
    simp only [State.beforePartials, State.setOsc_env, State.setEnv_env, h.left, h.right, h.regs.count]
    obtain ⟨rate, depth⟩ := h.env.trem present
    rw [rate, depth]
    exact ⟨rfl, rfl⟩
  osc := by
    simp only [State.beforePartials, State.setOsc_osc, h.left, h.right, h.regs.count, h.osc, h.beforeTremolo.osc]
    split
    next present =>
      obtain ⟨rate, -⟩ := h.env.trem present
      obtain ⟨step, base⟩ := h.regs.trem present
      rw [rate, step, base]
    next => rfl

/-- One partial at one sample index. -/
theorem State.Sounding.oscPartial (h : s.Sounding V u) (index : s.seq.n = u.seq.n) (has : i.val < V.partials.length) :
    (s.oscPartial P i f a).Sounding V (u.oscPartial P i f a) ∧
      (s.oscPartial P i f a).seq.n = (u.oscPartial P i f a).seq.n := by
  have pos : s.partialPos i = u.partialPos i := by
    rw [State.partialPos, State.partialPos, index, h.regs.delay i has]
  by_cases reach : s.reaches i
  · have reach' : u.reaches i := by rwa [State.reaches, ← pos, ← h.regs.count]
    have sample : s.partialSample P i a = u.partialSample P i a := by
      rw [State.partialSample, State.partialSample, h.regs.vol i has, h.osc, h.voice_eq]
    have phase : s.partialPhase i f = u.partialPhase i f := by
      rw [State.partialPhase, State.partialPhase, h.regs.inc i has, h.regs.base i has, h.osc]
    rw [State.oscPartial_of_reaches reach, State.oscPartial_of_reaches reach', pos, sample, phase, h.osc]
    have words := Buffer.words_add_congr h.words (u.partialPos i) (u.partialSample P i a)
    exact ⟨⟨⟨⟨h.score, h.left, h.right, words⟩, h.regs⟩, h.env, rfl⟩, index⟩
  · have beyond : ¬ u.reaches i := by rwa [State.reaches, ← pos, ← h.regs.count]
    rw [State.oscPartial_of_beyond reach, State.oscPartial_of_beyond beyond]
    exact ⟨h, index⟩

theorem State.Sounding.oscSample (h : s.Sounding V u) (index : s.seq.n = u.seq.n) :
    (s.oscSample P).Sounding V (u.oscSample P) := by
  have partials : s.partialIndices = u.partialIndices := by
    rw [State.partialIndices, State.partialIndices, h.voice_eq]
  rw [State.oscSample_eq, State.oscSample_eq, h.sampledFreq, h.sampledAmpl, partials]
  have sounded := List.foldl_rel (l := u.partialIndices)
    (r := fun t w : State => t.Sounding V w ∧ t.seq.n = w.seq.n)
    (f := fun t i => (t.atI i).oscPartial P i (u.sampledFreq P) (u.sampledAmpl P))
    (g := fun t i => (t.atI i).oscPartial P i (u.sampledFreq P) (u.sampledAmpl P))
    (a := s.beforePartials) (b := u.beforePartials) ⟨h.beforePartials, index⟩ fun i member t w both => by
      obtain ⟨sounding, index⟩ := both
      have moved : (t.atI i).Sounding V (w.atI i) :=
        ⟨⟨⟨sounding.score, sounding.left, sounding.right, sounding.words⟩, sounding.regs⟩, sounding.env, sounding.osc⟩
      exact moved.oscPartial index (h.right ▸ State.mem_partialIndices.1 member)
  exact sounded.1

theorem State.Sounding.voiceSynth (h : s.Sounding V u) : (s.voiceSynth P).Prepared V (u.voiceSynth P) := by
  have start : (s.atStage .synth).Sounding V (u.atStage .synth) :=
    ⟨⟨⟨h.score, h.left, h.right, h.words⟩, h.regs⟩, h.env, h.osc⟩
  have count : (u.atStage .synth).vs.count = (s.atStage .synth).vs.count := h.regs.count.symm
  rw [State.voiceSynth, State.voiceSynth]
  rw [count]
  refine (forUp_related (R := fun _ t w => State.Sounding V t w) (fun n t w sounding => ?_) _ start).toPrepared
  have moved : (t.atN n).Sounding V (w.atN n) :=
    ⟨⟨⟨sounding.score, sounding.left, sounding.right, sounding.words⟩, sounding.regs⟩, sounding.env, sounding.osc⟩
  exact moved.oscSample rfl

/-! ### The gate -/

theorem State.Gating.gateNext (h : s.Gating V u) : s.gateNext P = u.gateNext P := by
  simp only [State.gateNext, State.gateValue, h.left, h.right, h.regs.count, h.silence, h.duration, h.ctr, h.muted]

theorem State.Gating.gateStep (h : s.Gating V u) (index : s.seq.n = u.seq.n) :
    (s.gateStep P).Gating V (u.gateStep P) := by
  have words : (if (u.gateNext P).muted then s.vb.write u.seq.n.toNat 0 else s.vb).words =
      (if (u.gateNext P).muted then u.vb.write u.seq.n.toNat 0 else u.vb).words := by
    split
    · exact Buffer.words_write_congr h.words _ _
    · exact h.words
  rw [State.gateStep_eq, State.gateStep_eq, h.gateNext, index, h.left, h.right, h.regs.count, h.silence, h.duration]
  exact ⟨⟨⟨h.score, h.left, h.right, words⟩, h.regs⟩, rfl, rfl, rfl, rfl⟩

theorem State.Prepared.gateStage (h : s.Prepared V u) : (s.gateStage P).Prepared V (u.gateStage P) := by
  have start : ((s.atStage .gate).gateInit P).Gating V ((u.atStage .gate).gateInit P) := by
    have left : (s.atStage .gate).voice = V := h.left
    have right : (u.atStage .gate).voice = V := h.right
    rw [State.gateInit_eq, State.gateInit_eq, left, right]
    exact ⟨⟨⟨h.score, h.left, h.right, h.words⟩, h.regs⟩, rfl, rfl, rfl, rfl⟩
  have count : ((u.atStage .gate).gateInit P).vs.count = ((s.atStage .gate).gateInit P).vs.count := h.regs.count.symm
  rw [State.gateStage, State.gateStage]
  rw [count]
  refine (forUp_related (R := fun _ t w => State.Gating V t w) (fun n t w gating => ?_) _ start).toPrepared
  have moved : (t.atN n).Gating V (w.atN n) :=
    ⟨⟨⟨gating.score, gating.left, gating.right, gating.words⟩, gating.regs⟩, gating.silence, gating.duration,
      gating.ctr, gating.muted⟩
  exact moved.gateStep rfl

/-! ### The echo and the clip -/

theorem State.Prepared.echoApply (h : s.Prepared V u) : s.echoApply.Prepared V u.echoApply := by
  obtain ⟨n, left⟩ := s.echoApply_eq
  obtain ⟨m, right⟩ := u.echoApply_eq
  rw [left, right, h.regs.echoDelay, h.regs.count, h.left, h.right]
  exact ⟨⟨h.score, h.left, h.right, Buffer.words_echo_congr h.words _ _ _⟩, h.regs⟩

theorem State.Prepared.voiceClip (h : s.Prepared V u) : s.voiceClip.Prepared V u.voiceClip := by
  obtain ⟨n, left⟩ := s.voiceClip_eq
  obtain ⟨m, right⟩ := u.voiceClip_eq
  rw [left, right, h.regs.count]
  exact ⟨⟨h.score, h.left, h.right, Buffer.words_clip_congr h.words _⟩, h.regs⟩

/-! ### The filter -/

/-- Every tap that the pole counts name is converted, from the interpolation position alone (`44_filter.md` R270). -/
theorem fltCoefRegs_alike {F : Filter} {r q : FltRegs} (position : r.tval = q.tval) :
    (fltCoefRegs P F r).Alike F (fltCoefRegs P F q) where
  gain := by simp only [fltCoefRegs, position]
  ff k named := by
    simp only [fltCoefRegs, position, vget_overlay_channelVector, if_pos named]
  fb k named := by
    simp only [fltCoefRegs, position, vget_overlay_channelVector, if_pos named]

/-- A tap looks at the words of the buffer and at its own register. -/
theorem tapTerm_congr {b c : Buffer} (words : b.words = c.words) {v w : Vector Word 8} {k : Nat}
    (register : ∀ i : Fin 8, i.val = k → vget v i = vget w i) (count : Nat) (j : Int) :
    tapTerm b count v k j = tapTerm c count w k j := by
  rw [tapTerm, tapTerm]
  split
  next exists_k =>
    have coef : v[k] = w[k] := register ⟨k, exists_k⟩ rfl
    rw [coef, Buffer.term_congr words]
  next => rfl

theorem fltSum_congr {F : Filter} {r q : FltRegs} {b c : Buffer} (coefs : r.Alike F q) (words : b.words = c.words)
    (count n : Nat) : fltSum P F r b count n = fltSum P F q c count n := by
  have forward (acc : Wide) (k : Nat) (tap : k ∈ List.range F.ff.taps) :
      acc + tapTerm b count r.ff k (feedforwardIndex P.ffTapBase n F.ff.taps k) =
        acc + tapTerm c count q.ff k (feedforwardIndex P.ffTapBase n F.ff.taps k) := by
    rw [tapTerm_congr words fun i here => coefs.ff i (here ▸ List.mem_range.1 tap)]
  have back (acc : Wide) (k : Nat) (tap : k ∈ List.range F.fb.taps) :
      acc - tapTerm b count r.fb k (feedbackIndex n k) = acc - tapTerm c count q.fb k (feedbackIndex n k) := by
    rw [tapTerm_congr words fun i here => coefs.fb i (here ▸ List.mem_range.1 tap)]
  simp only [fltSum, coefs.gain, Buffer.term_congr words]
  rw [List.foldl_ext _ _ _ forward, List.foldl_ext _ _ _ back]

theorem State.Filtering.cutoffNext (h : s.Filtering V n u) : s.cutoffNext.1 = u.cutoffNext.1 ∧
    (V.filter.cutoffPresent = true → s.cutoffNext.2 = u.cutoffNext.2) := by
  simp only [State.cutoffNext, h.left, h.right, h.regs.count]
  split
  next present =>
    rw [h.cut present]
    exact ⟨rfl, fun _ => rfl⟩
  next absent => exact ⟨rfl, fun present => absurd present absent⟩

theorem State.Filtering.cutoffSampled (h : s.Filtering V n u) :
    (s.cutoffSampled n).Filtering V n (u.cutoffSampled n) where
  toPrepared := ⟨⟨h.score, h.left, h.right, h.words⟩, h.regs⟩
  cut := h.cutoffNext.2
  coefs later := ⟨(h.coefs later).gain, (h.coefs later).ff, (h.coefs later).fb⟩

/-- When a sample is due its coefficients are there: they are computed at the first one. -/
theorem State.Filtering.fltPrepared (h : s.Filtering V n u) :
    (s.fltPrepared P n).Filtering V (n + 1) (u.fltPrepared P n) := by
  obtain ⟨prepared, cut, coefs⟩ := h.cutoffSampled
  rw [State.fltPrepared, State.fltPrepared, h.left, h.right, h.regs.count]
  split
  next =>
    have converted := fltCoefRegs_alike (P := P) (F := V.filter) (r := (s.cutoffSampled n).flt)
      (q := (u.cutoffSampled n).flt) h.cutoffNext.1
    rw [State.fltCoef, State.fltCoef, prepared.left, prepared.right]
    exact ⟨⟨⟨h.score, h.left, h.right, h.words⟩, h.regs⟩, cut, fun _ => converted⟩
  next kept =>
    have later : 0 < n := by
      rw [coefHere_iff] at kept
      omega
    exact ⟨prepared, cut, fun _ => coefs later⟩

theorem State.Filtering.fltSample (h : s.Filtering V n u) :
    (s.fltSample P n).Filtering V (n + 1) (u.fltSample P n) := by
  obtain ⟨prepared, cut, coefs⟩ := h.fltPrepared (P := P)
  have alike := coefs n.succ_pos
  rw [State.fltSample_eq, State.fltSample_eq, State.fltStep, State.fltStep, prepared.left, prepared.right,
    prepared.regs.count, fltSum_congr alike prepared.words]
  exact ⟨⟨⟨prepared.score, prepared.left, prepared.right, Buffer.words_write_congr prepared.words _ _⟩, prepared.regs⟩,
    cut, fun _ => ⟨alike.gain, alike.ff, alike.fb⟩⟩

theorem State.Prepared.filterStart (h : s.Prepared V u) : s.filterStart.Filtering V 0 u.filterStart := by
  rw [State.filterStart, State.filterStart, h.left, h.right]
  split
  next =>
    have reset : envResetRegs s.voice.filter.cutoff = envResetRegs u.voice.filter.cutoff := by rw [h.voice_eq]
    exact ⟨⟨⟨h.score, h.left, h.right, h.words⟩, h.regs⟩, fun _ => reset, nofun⟩
  next absent => exact ⟨⟨⟨h.score, h.left, h.right, h.words⟩, h.regs⟩, fun present => absurd present absent, nofun⟩

theorem State.Prepared.fltApply (h : s.Prepared V u) : (s.fltApply P).Prepared V (u.fltApply P) := by
  rw [State.fltApply_eq, State.fltApply_eq, h.regs.count]
  exact (forUp_related (R := State.Filtering V) (fun _ _ _ filtering => filtering.fltSample) _ h.filterStart).toPrepared

/-! ### The stages -/

theorem State.Prepared.ite {c : Prop} [Decidable c] {s' u' : State} (h : s.Prepared V u) (h' : s'.Prepared V u') :
    (if c then s else s').Prepared V (if c then u else u') := by
  split
  · exact h
  · exact h'

theorem State.Prepared.voiceStages (h : s.Prepared V u) : (s.voiceStages P).Prepared V (u.voiceStages P) := by
  rw [State.voiceStages_eq, State.voiceStages_eq, State.beforeClip, State.beforeClip, h.left, h.right]
  have gated := h.gateStage (P := P) |>.ite (c := V.gate.present = true) h
  have echoed := gated.echoApply.ite (c := V.echoOn = true) gated
  exact ((echoed.fltApply (P := P)).ite (c := V.filterPresent = true) echoed).voiceClip

end

end Sys2Proof.Machine
end

section
/-! Two renders of one configuration: they end alike, and their outputs are the same words (`60_exceptions.md` R354;
`70_reset_and_hazards.md` R381). -/

namespace Sys2Proof.Machine

/-! ### Two operations that end alike -/

/-- Both operations end, in states that `R` relates, or both raise a fatal exception. -/
inductive Together (R : State → State → Prop) : Except Stop (Unit × State) → Except Stop (Unit × State) → Prop
  | done {t w : State} (related : R t w) : Together R (.ok ((), t)) (.ok ((), w))
  | failed (t w : State) (c : Cause) : Together R (.error (.fatal (t.fatalEntry c))) (.error (.fatal (w.fatalEntry c)))

theorem Together.bind {R S : State → State → Prop} {x y : Except Stop (Unit × State)}
    {f g : State → Except Stop (Unit × State)} (h : Together R x y) (next : ∀ t w, R t w → Together S (f t) (g w)) :
    Together S (x.bind fun r => f r.2) (y.bind fun r => g r.2) := by
  cases h with
  | done related => exact next _ _ related
  | failed t w c => exact .failed t w c

/-! ### The setup -/

section
variable {P : Params} {V : Voice} {s u : State}

/-- An element that the list has does not depend on the register it is written over. -/
theorem vget_overlay_congr {α : Type} {n : Nat} (v w : Vector α n) {l : List α} {i : Fin n} (has : i.val < l.length) :
    vget (overlay v l) i = vget (overlay w l) i :=
  (vget_overlay (List.getElem?_eq_getElem has)).trans (vget_overlay (List.getElem?_eq_getElem has)).symm

/-- The derived registers that a voice uses are computed from the voice and its lengths (`43_voice_stages.md` R232). -/
theorem setupRegs_alike (P : Params) (V : Voice) {r q : VoiceRegs} (count : r.count = q.count) (sps : r.sps = q.sps) :
    (setupRegs P V r).Alike V (setupRegs P V q) := by
  refine ⟨count, fun i has => ?_, fun i has => ?_, fun i has => ?_, fun i has => ?_, fun present => ?_,
    fun present => ?_, ?_⟩ <;> simp only [setupRegs, sps]
  case refine_5 | refine_6 => simp only [present, if_true, and_self]
  all_goals exact vget_overlay_congr _ _ (by rwa [List.length_map])

theorem State.Paired.setupEnv (h : s.Paired V u) : s.setupEnv.Alike V u.setupEnv := by
  simp only [State.setupEnv, h.left, h.right]
  refine ⟨rfl, rfl, fun present => ?_, fun present => ?_⟩
  · simp only [present, if_true, and_self]
  · simp only [present, if_true, and_self]

theorem State.afterSetup_vs (left : s.voice = V) : (s.afterSetup P).vs = setupRegs P V (setupLengths V s.vs) := by
  rw [← left]
  rfl

theorem State.afterSetup_words (left : s.voice = V) :
    (s.afterSetup P).vb.words = List.replicate (ms2s V.duration.toNat) 0 := by
  rw [← left]
  rfl

theorem State.Paired.afterSetup (h : s.Paired V u) : (s.afterSetup P).Sounding V (u.afterSetup P) := by
  have words : (s.afterSetup P).vb.words = (u.afterSetup P).vb.words :=
    (State.afterSetup_words h.left).trans (State.afterSetup_words h.right).symm
  have regs : (s.afterSetup P).vs.Alike V (u.afterSetup P).vs := by
    rw [State.afterSetup_vs h.left, State.afterSetup_vs h.right]
    exact setupRegs_alike P V rfl rfl
  exact ⟨⟨⟨h.score, h.left, h.right, words⟩, regs⟩, h.setupEnv, rfl⟩

/-- After the setup: the number of samples is the same, and where there is one the synthesis has all it reads. -/
structure State.Ready (V : Voice) (s u : State) : Prop extends State.Paired V s u where
  count : s.vs.count = u.vs.count
  sounding : s.vs.count ≠ 0 → s.Sounding V u

theorem State.Paired.voiceSetup (h : s.Paired V u) :
    Together (State.Ready V) (voiceSetup P s) (voiceSetup P u) := by
  by_cases short : V.duration.toNat < P.minDuration
  · rw [voiceSetup_of_short (h.left ▸ short), voiceSetup_of_short (h.right ▸ short)]
    exact .done ⟨⟨h.score, h.left, h.right, h.words⟩, rfl, fun some => absurd rfl some⟩
  cases supplied : P.supplies (ms2s V.duration.toNat) with
  | true =>
    rw [voiceSetup_of_supplied (h.left ▸ short) (h.left ▸ supplied),
      voiceSetup_of_supplied (h.right ▸ short) (h.right ▸ supplied)]
    have sounding := h.afterSetup (P := P)
    exact .done ⟨sounding.toPaired, sounding.regs.count, fun _ => sounding⟩
  | false =>
    rw [voiceSetup_of_unsupplied (h.left ▸ short) (h.left ▸ supplied),
      voiceSetup_of_unsupplied (h.right ▸ short) (h.right ▸ supplied)]
    exact .failed _ _ _

/-! ### One voice -/

/-- A rendered voice: the samples are the same, and so is what they are added to. -/
structure State.Rendered (V : Voice) (s u : State) : Prop extends State.Paired V s u where
  count : s.vs.count = u.vs.count

theorem State.Paired.voiceRender (h : s.Paired V u) :
    Together (State.Rendered V) (voiceRender P s) (voiceRender P u) := by
  rw [voiceRender_eq, voiceRender_eq]
  refine h.voiceSetup.bind (f := fun t => .ok ((), if t.vs.count = 0 then t else (t.voiceSynth P).voiceStages P))
    (g := fun t => .ok ((), if t.vs.count = 0 then t else (t.voiceSynth P).voiceStages P)) fun t w ready => .done ?_
  rw [← ready.count]
  split
  next => exact ⟨ready.toPaired, ready.count⟩
  next some =>
    have staged := ((ready.sounding some).voiceSynth (P := P)).voiceStages (P := P)
    exact ⟨staged.toPaired, staged.regs.count⟩

/-- Between two voices of a render: the same score, and the same words in the voice buffer. -/
structure State.Mixing (s u : State) : Prop where
  score : s.score = u.score
  words : s.vb.words = u.vb.words

/-- The mix buffer written with the same words. -/
theorem score_setMb (h : s.score = u.score) {b c : Buffer} (words : b.words = c.words) :
    (s.setMb b).score = (u.setMb c).score :=
  congrArg₂ (fun (k : Score) w => { k with words := w }) h words

theorem State.Rendered.mixAcc (h : s.Rendered V u) : s.mixAcc.Mixing u.mixAcc := by
  obtain ⟨n, left⟩ := s.mixAcc_eq
  obtain ⟨m, right⟩ := u.mixAcc_eq
  have mix : s.mix = u.mix := congrArg Score.mix h.score
  have mixed : s.mb.words = u.mb.words := congrArg Score.words h.score
  rw [left, right, h.left, h.right, h.count, mix]
  exact ⟨score_setMb (s := s.setSeq _) (u := u.setSeq _) h.score (words_accumulate_congr mixed h.words _ _ _), h.words⟩

/-- The accumulation writes no derived register. -/
@[simp] theorem State.mixAcc_vs (s : State) : s.mixAcc.vs = s.vs := by
  obtain ⟨n, moved⟩ := s.mixAcc_eq
  rw [moved]
  rfl

theorem State.Rendered.mixIn (h : s.Rendered V u) : (s.mixIn P).Mixing (u.mixIn P) := by
  have mixed := h.mixAcc
  rw [State.mixIn, State.mixIn, State.mixAcc_vs, State.mixAcc_vs, h.count]
  split
  · exact mixed
  · exact ⟨mixed.score, rfl⟩

/-! ### The render -/

theorem State.Mixing.mixVoices (h : s.Mixing u) (l : List (Fin 10)) :
    Together State.Mixing (mixVoices P l s) (mixVoices P l u) := by
  induction l generalizing s u with
  | nil => exact .done h
  | cons v l ih =>
    have same : u.voiceOf v = s.voiceOf v := congrArg (fun k : Score => (vget k.slot v).voice) h.score.symm
    have paired : (s.atVoice v).Paired (s.voiceOf v) (u.atVoice v) := ⟨h.score, rfl, same, h.words⟩
    rw [mixVoices_cons, mixVoices_cons]
    exact paired.voiceRender.bind (f := fun t => Machine.mixVoices P l (t.mixIn P))
      (g := fun t => Machine.mixVoices P l (t.mixIn P)) fun t w rendered => ih rendered.mixIn

/-- The output is the same: its length, and the words of the mix buffer. -/
structure State.SameOutput (s u : State) : Prop where
  outLen : s.outLen = u.outLen
  words : s.mb.words = u.mb.words

theorem State.Mixing.mixLoop (h : s.Mixing u) : s.mixLoop.Mixing u.mixLoop := by
  have mix : s.mix = u.mix := congrArg Score.mix h.score
  have first : s.cfg.loopBegin = u.cfg.loopBegin := congrArg Score.loopBegin h.score
  have last : s.cfg.loopEnd = u.cfg.loopEnd := congrArg Score.loopEnd h.score
  have mixed : s.mb.words = u.mb.words := congrArg Score.words h.score
  by_cases loops : s.mix.loopValid = true ∧ 1 < s.mix.reps.toNat
  · obtain ⟨n, left⟩ := State.mixLoop_eq loops.1 loops.2
    obtain ⟨m, right⟩ := State.mixLoop_eq (s := u) (mix ▸ loops.1) (mix ▸ loops.2)
    rw [left, right, first, last, mix]
    exact ⟨score_setMb (s := s.setSeq _) (u := u.setSeq _) h.score (Buffer.words_expand_congr mixed _ _ _ _), h.words⟩
  · have left : s.mixLoop = s := if_neg loops
    have right : u.mixLoop = u := if_neg (mix ▸ loops)
    rw [left, right]
    exact h

theorem State.Mixing.mixEnd (h : s.Mixing u) : s.mixEnd.SameOutput u.mixEnd := by
  obtain ⟨n, left⟩ := s.mixLoop.mixClip_eq
  obtain ⟨m, right⟩ := u.mixLoop.mixClip_eq
  have mix : s.mixLoop.mix = u.mixLoop.mix := congrArg Score.mix h.mixLoop.score
  have mixed : s.mixLoop.mb.words = u.mixLoop.mb.words := congrArg Score.words h.mixLoop.score
  rw [State.mixEnd, State.mixEnd, left, right, mix]
  exact ⟨congrArg MixRegs.total mix, Buffer.words_clip_congr mixed _⟩

/-- Both states have the configuration of a render, and the same words in both buffers. -/
structure State.SameSong (s u : State) : Prop where
  slot : s.cfg.slot = u.cfg.slot
  loopBegin : s.cfg.loopBegin = u.cfg.loopBegin
  loopEnd : s.cfg.loopEnd = u.cfg.loopEnd
  loopCount : s.cfg.loopCount = u.cfg.loopCount
  mixed : s.mb.words = u.mb.words
  words : s.vb.words = u.vb.words

/-- The configurations of a render differ in the cursor of the loader at most. -/
theorem State.SameSong.cfg_eq (h : s.SameSong u) :
    u.cfg = { s.cfg with pos := u.cfg.pos, len := u.cfg.len, trunc := u.cfg.trunc } := by
  rw [Cfg.mk.injEq]
  exact ⟨h.slot.symm, h.loopBegin.symm, h.loopEnd.symm, h.loopCount.symm, rfl, rfl, rfl⟩

theorem State.SameSong.isValid (h : s.SameSong u) : s.isValid = u.isValid := by
  funext v
  rw [State.isValid, State.isValid, h.slot]

theorem State.SameSong.mixLengths (h : s.SameSong u) : mixLengths u.cfg = mixLengths s.cfg := by
  rw [h.cfg_eq]
  rfl

theorem State.SameSong.outFits (h : s.SameSong u) : u.mixLen.outFits P = s.mixLen.outFits P := by
  have left : u.mixLen.mix = s.mixLen.mix := h.mixLengths
  have total (k : MixRegs) : u.cfg.exactTotal k.single.toNat k.reps.toNat =
      s.cfg.exactTotal k.single.toNat k.reps.toNat := by
    rw [h.cfg_eq]
    rfl
  have fits (t : State) : t.mixLen.outFits P =
      Machine.outFits P (t.cfg.exactTotal t.mixLen.mix.single.toNat t.mixLen.mix.reps.toNat) := rfl
  rw [fits, fits, left, total]

theorem State.SameSong.withMix (h : s.SameSong u) : (s.mixLen.withMix P).Mixing (u.mixLen.withMix P) := by
  have mix : u.mixLen.mix = s.mixLen.mix := h.mixLengths
  have score : s.mixLen.score = u.mixLen.score := by
    rw [State.score, State.score, Score.mk.injEq]
    exact ⟨h.slot, h.loopBegin, h.loopEnd, mix.symm, h.mixed⟩
  have words : (acquired P s.mixLen.mix.total.toNat s.mixLen.pool).words =
      (acquired P u.mixLen.mix.total.toNat u.mixLen.pool).words := by
    rw [mix]
    rfl
  exact ⟨score_setMb score words, h.words⟩

theorem State.SameSong.mixRender (h : s.SameSong u) :
    Together State.SameOutput (mixRender P s) (mixRender P u) := by
  cases present : tenIndices.any s.isValid with
  | false =>
    rw [mixRender_of_empty present, mixRender_of_empty (h.isValid ▸ present)]
    exact .done ⟨rfl, h.mixed⟩
  | true =>
    have present' : tenIndices.any u.isValid = true := h.isValid ▸ present
    have mix : u.mixLen.mix = s.mixLen.mix := h.mixLengths
    by_cases fits : s.mixLen.outFits P = true ∧ P.supplies s.mixLen.mix.total.toNat = true
    · obtain ⟨fits, supplied⟩ := fits
      rw [mixRender_of_fits present fits supplied,
        mixRender_of_fits present' (h.outFits.trans fits) ((congrArg _ (by rw [mix])).trans supplied), ← h.isValid]
      exact (h.withMix.mixVoices _).bind (f := fun t => .ok ((), t.mixEnd)) (g := fun t => .ok ((), t.mixEnd))
        fun t w mixing => .done mixing.mixEnd
    · rw [mixRender_of_unfit present fits, mixRender_of_unfit present' (by rwa [h.outFits, mix])]
      exact .failed _ _ _

/-! ### The command -/

/-- Legality looks at the slots alone (`40_config_load.md` R154). -/
theorem Cfg.legal_congr {c d : Cfg} (slot : c.slot = d.slot) : c.legal = d.legal := by rw [Cfg.legal, slot, Cfg.legal]

theorem cmdRender_together (accepted : s.acceptsWork = true) (accepted' : u.acceptsWork = true)
    (slot : s.cfg.slot = u.cfg.slot) (loopBegin : s.cfg.loopBegin = u.cfg.loopBegin)
    (loopEnd : s.cfg.loopEnd = u.cfg.loopEnd) (loopCount : s.cfg.loopCount = u.cfg.loopCount) :
    Together (fun t w => ∃ a b : State, a.SameOutput b ∧ t = a.endRender ∧ w = b.endRender)
      (cmdRender P s) (cmdRender P u) := by
  have song : (s.beginCommand .rendering).SameSong (u.beginCommand .rendering) :=
    ⟨slot, loopBegin, loopEnd, loopCount, rfl, rfl⟩
  rw [cmdRender_of_accepted accepted, cmdRender_of_accepted accepted', Cfg.legal_congr slot]
  split
  · exact song.mixRender.bind (f := fun t => .ok ((), t.endRender)) (g := fun t => .ok ((), t.endRender))
      fun t w same => .done ⟨t, w, same, rfl, rfl⟩
  · exact .failed _ _ _

end

/-- Settles O52: the two commands run side by side; each stage reads only what the configuration or an earlier stage of
the same command has written. -/
theorem renderDependsOnConfiguration : Obligations.RenderDependsOnConfiguration := by
  refine ⟨fun s => rfl, fun P s u accepted accepted' slot loopBegin loopEnd loopCount => ?_⟩
  have together := cmdRender_together (P := P) accepted accepted' slot loopBegin loopEnd loopCount
  generalize cmdRender P s = x at together ⊢
  generalize cmdRender P u = y at together ⊢
  cases together with
  | done ended =>
    obtain ⟨a, b, same, rfl, rfl⟩ := ended
    exact ⟨_, _, rfl, rfl, rfl, same.outLen, rfl, fun _ i _ => Buffer.read_congr same.words i⟩
  | failed t w c => exact ⟨_, _, rfl, rfl, rfl, rfl, rfl, nofun⟩

end Sys2Proof.Machine
end

section
/-! `CMD.RENDER`: the list of `40_config_load.md` R154 that it checks, its ends, and what it leaves as it was
(`60_exceptions.md` R347, R354, R360). -/

namespace Sys2Proof.Machine

/-! ### The list of R154 -/

theorem Envelope.legal_iff (E : Envelope) : E.legal = true ↔ (E.segs = [] → E.start = E.stop) := by
  rw [Envelope.legal, Bool.or_eq_true, Bool.not_eq_true', List.isEmpty_eq_false_iff, beq_iff_eq]
  tauto

theorem EnvPair.legal_iff (p : EnvPair) : p.legal = true ↔ (p.present = true →
    (p.first.segs = [] → p.first.start = p.first.stop) ∧ (p.second.segs = [] → p.second.start = p.second.stop)) := by
  rw [EnvPair.legal, Bool.or_eq_true, Bool.not_eq_true', Bool.and_eq_true, Envelope.legal_iff, Envelope.legal_iff,
    ← Bool.not_eq_true]
  exact imp_iff_not_or.symm

theorem Filter.legal_iff (F : Filter) : F.legal = true ↔ F.ff.count.toNat ≤ 4 ∧ F.fb.count.toNat ≤ 4 ∧
    (F.cutoffPresent = true → F.cutoff.segs = [] → F.cutoff.start = F.cutoff.stop) := by
  rw [Filter.legal, Bool.and_eq_true, Bool.and_eq_true, decide_eq_true_eq, decide_eq_true_eq, Bool.or_eq_true,
    Bool.not_eq_true', Envelope.legal_iff, ← Bool.not_eq_true, ← imp_iff_not_or, and_assoc]
  rfl

theorem Voice.legal_iff (V : Voice) : V.legal = true ↔
    V.frequency.legal = true ∧ V.amplitude.legal = true ∧ V.pitchLfo.legal = true ∧ V.amplitudeLfo.legal = true ∧
      V.gate.legal = true ∧ (∀ p ∈ V.partials, p.amplitude ≠ 0) ∧ V.partials.length ≤ 10 ∧
      (V.filterPresent = true → V.filter.legal = true) := by
  simp only [Voice.legal, Bool.and_eq_true, List.all_eq_true, bne_iff_ne, decide_eq_true_eq, Bool.or_eq_true,
    Bool.not_eq_true', ← Bool.not_eq_true, ← imp_iff_not_or, and_assoc]
  rfl

theorem Cfg.legal_iff (c : Cfg) : c.legal = true ↔
    ∀ v : Fin 10, (vget c.slot v).valid = true → (vget c.slot v).voice.legal = true := by
  simp only [Cfg.legal, List.all_eq_true, mem_tenIndices, forall_const, Bool.or_eq_true, Bool.not_eq_true',
    ← Bool.not_eq_true, ← imp_iff_not_or]

/-! ### What a render leaves beside its frame -/

/-- The latches and the command register, which no operation of a render writes, and the voice buffer, which each voice
of a render releases. -/
structure Aside where
  cmd : Byte
  pending : Option Place
  io : Ports
  ldr : Loader
  vb : Buffer

def State.aside (s : State) : Aside := ⟨s.cmd, s.pending, s.io, s.ldr, s.vb⟩

/-- A part of a render between two voices has led from `s` to `t`. -/
structure State.Mixes (s t : State) : Prop where
  frame : t.frame = s.frame
  aside : t.aside = s.aside

section
variable {s t u : State}

theorem State.Mixes.trans (h : s.Mixes t) (k : t.Mixes u) : s.Mixes u := ⟨k.frame.trans h.frame, k.aside.trans h.aside⟩

theorem State.aside_mixEnd (s : State) : s.mixEnd.aside = s.aside := by
  have loop : s.mixLoop.aside = s.aside := by
    by_cases loops : s.mix.loopValid = true ∧ 1 < s.mix.reps.toNat
    · obtain ⟨n, moved⟩ := State.mixLoop_eq loops.1 loops.2
      rw [moved]
      rfl
    · exact congrArg State.aside (if_neg loops)
  obtain ⟨n, clipped⟩ := s.mixLoop.mixClip_eq
  rw [State.mixEnd, clipped]
  exact loop

/-! ### The voices -/

/-- A voice whose buffer the platform supplies leaves no voice buffer behind. -/
theorem mixIn_of_supplied (clear : s.vb = Buffer.blank) (supplied : s.voice.supplied Config.params = true) :
    ∃ t, voiceRender Config.params s = .ok ((), t) ∧ s.Mixes (t.mixIn Config.params) := by
  obtain ⟨t, render, frame, -⟩ := voiceRender_ok supplied
  refine ⟨t, render, (State.frame_mixIn _ t).trans frame, ?_⟩
  obtain ⟨t', run, result⟩ := Sys2Proof.voiceResult s
  cases run.symm.trans (congrArg finish render)
  rw [if_pos supplied] at result
  obtain ⟨revoiced, -, -, samples⟩ := result
  have latches : t.aside = { s.aside with vb := t.vb } := by
    rw [revoiced]
    rfl
  obtain ⟨n, mixed⟩ := t.mixAcc_eq
  rw [State.mixIn, State.mixAcc_vs, mixed]
  split
  next none =>
    have unheld : t.vb = s.vb := by
      split at samples
      next => exact samples.2
      next long =>
        have length := samples.1
        rw [← toNat_voiceCount, BitVec.toNat_inj, none] at length
        exact absurd length.symm (voiceCount_ne_zero long)
    show t.aside = s.aside
    rw [latches, unheld]
    rfl
  next =>
    show { t.aside with vb := Buffer.blank } = s.aside
    rw [latches, ← clear]
    rfl

/-- A voice whose buffer the platform does not supply raises `E_FAIL` before anything else is written. -/
theorem voiceRender_of_unsupplied (unsupplied : s.voice.supplied Config.params = false) :
    ∃ a : State, voiceRender Config.params s = .error (.fatal (a.fatalEntry .fail)) ∧ s.Mixes a := by
  by_cases short : s.voice.duration.toNat < Config.params.minDuration
  · exact absurd (Voice.supplied_of_short short) (Bool.eq_false_iff.1 unsupplied)
  · have setup := voiceSetup_of_unsupplied short ((Voice.supplied_of_long short).symm.trans unsupplied)
    exact ⟨s.beforeVb, by rw [voiceRender_eq, setup]; rfl, rfl, rfl⟩

/-- The voices of a render all have their buffers, or the first that has none ends it. -/
theorem mixVoices_ends (clear : s.vb = Buffer.blank) (l : List (Fin 10)) :
    (∃ t, mixVoices Config.params l s = .ok ((), t) ∧ s.Mixes t ∧
        ∀ v ∈ l, (s.voiceOf v).supplied Config.params = true) ∨
      ∃ a : State, mixVoices Config.params l s = .error (.fatal (a.fatalEntry .fail)) ∧ s.Mixes a ∧
        ∃ v ∈ l, (s.voiceOf v).supplied Config.params = false := by
  induction l generalizing s with
  | nil => exact .inl ⟨s, rfl, ⟨rfl, rfl⟩, nofun⟩
  | cons v l ih =>
    rw [mixVoices_cons]
    cases supplied : (s.voiceOf v).supplied Config.params with
    | false =>
      obtain ⟨a, fatal, mixes⟩ := voiceRender_of_unsupplied (s := s.atVoice v) supplied
      exact .inr ⟨a, by rw [fatal]; rfl, ⟨mixes.frame, mixes.aside⟩, v, List.mem_cons_self, supplied⟩
    | true =>
      obtain ⟨t, render, mixes⟩ := mixIn_of_supplied (s := s.atVoice v) clear supplied
      have mixes : s.Mixes (t.mixIn Config.params) := ⟨mixes.frame, mixes.aside⟩
      have voices (w : Fin 10) : (t.mixIn Config.params).voiceOf w = s.voiceOf w := State.voiceOf_of_frame mixes.frame w
      have rest := ih (s := t.mixIn Config.params) ((congrArg Aside.vb mixes.aside).trans clear)
      simp only [voices] at rest
      rw [render]
      rcases rest with ⟨w, run, others, all⟩ | ⟨a, fatal, others, w, member, unsupplied⟩
      · exact .inl ⟨w, run, mixes.trans others, List.forall_mem_cons.2 ⟨supplied, all⟩⟩
      · exact .inr ⟨a, fatal, mixes.trans others, w, List.mem_cons_of_mem v member, unsupplied⟩

/-! ### The render -/

/-- The platform has room for the output and a buffer for the mix and for every voice (log 16, log 17). -/
def State.roomy (s : State) (total : Nat) : Prop :=
  Machine.outFits Config.params total = true ∧ Config.params.supplies total = true ∧
    ∀ v, s.isValid v = true → (s.voiceOf v).supplied Config.params = true

/-- What a whole render leaves as it was. -/
structure State.Plays (s t : State) : Prop where
  outer : t.outer = s.outer
  aside : t.aside = s.aside

/-- A render of valid slots has its whole output, or raises `E_FAIL` for want of room. -/
theorem mixRender_ends (clear : s.vb = Buffer.blank) (present : tenIndices.any s.isValid = true) :
    let total := s.cfg.exactTotal s.mixLen.mix.single.toNat s.mixLen.mix.reps.toNat
    (∃ t, mixRender Config.params s = .ok ((), t) ∧ s.Plays t ∧ s.roomy total ∧ t.outLen.toNat = total ∧
        t.mb.words.length = total) ∨
      ∃ a : State, mixRender Config.params s = .error (.fatal (a.fatalEntry .fail)) ∧ s.Plays a ∧ ¬ s.roomy total := by
  intro total
  have room : s.mixLen.outFits Config.params = Machine.outFits Config.params total := rfl
  have outer : (s.mixLen.withMix Config.params).outer = s.outer := rfl
  by_cases fits : s.mixLen.outFits Config.params = true ∧ Config.params.supplies s.mixLen.mix.total.toNat = true
  · obtain ⟨fits, supplied⟩ := fits
    have length : s.mixLen.mix.total.toNat = total := State.toNat_total fits
    rw [mixRender_of_fits present fits supplied]
    have ends := mixVoices_ends (s := s.mixLen.withMix Config.params) clear (tenIndices.filter s.isValid)
    have member (v : Fin 10) : v ∈ tenIndices.filter s.isValid ↔ s.isValid v = true := by
      rw [List.mem_filter, and_iff_right (mem_tenIndices v)]
    rcases ends with ⟨t, run, mixes, all⟩ | ⟨a, fatal, mixes, v, valid, unsupplied⟩
    · refine .inl ⟨t.mixEnd, by rw [run]; rfl, ⟨?_, t.aside_mixEnd.trans mixes.aside⟩,
        ⟨room.symm.trans fits, length ▸ supplied, fun v valid => all v ((member v).2 valid)⟩, ?_, ?_⟩
      · exact (congrArg Frame.outer t.frame_mixEnd).trans ((outer_of_frame mixes.frame).trans outer)
      · have total : t.mixEnd.outLen = t.mix.total := congrArg Frame.outLen t.frame_mixEnd
        have mix : t.mix = s.mixLen.mix := congrArg Frame.mix mixes.frame
        rw [total, mix, length]
      · have words : t.mixEnd.mb.words.length = t.mb.words.length := congrArg Frame.mbLength t.frame_mixEnd
        have acquired : t.mb.words.length = s.mixLen.mix.total.toNat :=
          (congrArg Frame.mbLength mixes.frame).trans (length_acquired _ _ _)
        rw [words, acquired, length]
    · refine .inr ⟨a, by rw [fatal]; rfl, ⟨(outer_of_frame mixes.frame).trans outer, mixes.aside⟩, fun roomy => ?_⟩
      exact absurd (roomy.2.2 v ((member v).1 valid)) (Bool.eq_false_iff.1 unsupplied)
  · refine .inr ⟨s.mixLen, mixRender_of_unfit present fits, ⟨rfl, rfl⟩, fun roomy => ?_⟩
    obtain ⟨space, supplied, -⟩ := roomy
    have space : s.mixLen.outFits Config.params = true := room.trans space
    have length : s.mixLen.mix.total.toNat = total := State.toNat_total space
    exact fits ⟨space, length.symm ▸ supplied⟩

/-! ### The command -/

/-- What the command leaves as it was, however it ends; no voice buffer is held. -/
structure State.Commanded (s t : State) : Prop where
  cfg : t.cfg = s.cfg
  img : t.img = s.img
  warnCount : t.warnCount = s.warnCount
  warnMask : t.warnMask = s.warnMask
  aside : t.aside = { s.aside with vb := Buffer.blank }
  busy : t.status.busy = false
  warn : t.status.warn = s.status.warn

/-- The same with the latches one by one, beside what is known of the end. -/
theorem State.Commanded.beside (h : s.Commanded t) {X : Prop} (ends : X) :
    t.cfg = s.cfg ∧ t.img = s.img ∧ t.warnCount = s.warnCount ∧ t.warnMask = s.warnMask ∧ t.cmd = s.cmd ∧
      t.pending = s.pending ∧ t.io = s.io ∧ t.ldr = s.ldr ∧ t.status.busy = false ∧ t.status.warn = s.status.warn ∧
      t.vb = Buffer.blank ∧ X :=
  ⟨h.cfg, h.img, h.warnCount, h.warnMask, congrArg Aside.cmd h.aside, congrArg Aside.pending h.aside,
    congrArg Aside.io h.aside, congrArg Aside.ldr h.aside, h.busy, h.warn, congrArg Aside.vb h.aside, ends⟩

/-- A render inside the command does not leave RENDERING. -/
theorem State.Plays.rendering (h : (s.beginCommand .rendering).Plays u) : u.seq.state = .rendering :=
  congrArg (·.control.state) h.outer

theorem State.Plays.endRender (h : (s.beginCommand .rendering).Plays u) : s.Commanded u.endRender :=
  ⟨congrArg Outer.cfg h.outer, congrArg (·.control.img) h.outer, congrArg Outer.warnCount h.outer,
    congrArg Outer.warnMask h.outer, h.aside, rfl, congrArg Outer.warn h.outer⟩

theorem State.Plays.fatalEntry (h : (s.beginCommand .rendering).Plays u) (c : Cause) :
    s.Commanded (u.fatalEntry c) ∧ (u.fatalEntry c).mb = Buffer.blank := by
  have cfg : (u.fatalEntry c).cfg = u.cfg := by
    rw [State.fatalEntry_cfg, h.rendering]
    rfl
  refine ⟨⟨cfg.trans (congrArg Outer.cfg h.outer), congrArg (·.control.img) h.outer, congrArg Outer.warnCount h.outer,
    congrArg Outer.warnMask h.outer, h.aside, rfl, congrArg Outer.warn h.outer⟩, ?_⟩
  rw [State.fatalEntry_mb, h.rendering]
  rfl

theorem exec_cmdRender (s : State) : exec .cmdRender s = finish (cmdRender Config.params s) := rfl

theorem exec_cmdRender_of_illegal (accepted : s.acceptsWork = true) (illegal : s.cfg.legal = false) :
    exec .cmdRender s = .next ((s.beginCommand .rendering).fatalEntry .reserved) := by
  rw [exec_cmdRender, cmdRender_of_accepted accepted, illegal]
  rfl

theorem exec_cmdRender_of_rendered (accepted : s.acceptsWork = true) (legal : s.cfg.legal = true)
    (render : mixRender Config.params (s.beginCommand .rendering) = .ok ((), u)) :
    exec .cmdRender s = .next u.endRender := by
  rw [exec_cmdRender, cmdRender_of_accepted accepted, if_pos legal, render]
  rfl

theorem exec_cmdRender_of_fatal (accepted : s.acceptsWork = true) (legal : s.cfg.legal = true)
    (render : mixRender Config.params (s.beginCommand .rendering) = .error (.fatal u)) :
    exec .cmdRender s = .next u := by
  rw [exec_cmdRender, cmdRender_of_accepted accepted, if_pos legal, render]
  rfl

end

/-- Settles O50: the check is the list of R154, clause by clause; the ends are those of the render inside the
command. -/
theorem commandRender : Obligations.CommandRender := by
  intro s sound pair
  refine ⟨?_, fun accepted => ?_⟩
  · simp only [Cfg.legal_iff, Voice.legal_iff, Filter.legal_iff, EnvPair.legal_iff, Envelope.legal_iff]
    rfl
  intro L total
  cases legal : s.cfg.legal with
  | false =>
    obtain ⟨commanded, mb⟩ := State.Plays.fatalEntry (s := s) ⟨rfl, rfl⟩ .reserved
    refine ⟨_, exec_cmdRender_of_illegal accepted legal, commanded.beside ?_⟩
    rw [if_pos rfl]
    exact ⟨rfl, rfl, rfl, rfl, rfl, mb⟩
  | true =>
    rw [← List.not_any_eq_all_not]
    cases present : tenIndices.any s.isValid with
    | false =>
      have render : mixRender Config.params (s.beginCommand .rendering) =
          .ok ((), (s.beginCommand .rendering).setOutLen 0) := mixRender_of_empty present
      have commanded : s.Commanded ((s.beginCommand .rendering).setOutLen 0).endRender :=
        State.Plays.endRender ⟨rfl, rfl⟩
      refine ⟨_, exec_cmdRender_of_rendered accepted legal render, commanded.beside ?_⟩
      rw [if_neg nofun]
      exact (if_pos rfl).mpr rfl
    | true =>
      rcases mixRender_ends (s := s.beginCommand .rendering) rfl present with
        ⟨u, render, plays, roomy, outLen, words⟩ | ⟨a, fatal, plays, cramped⟩
      · refine ⟨_, exec_cmdRender_of_rendered accepted legal render, plays.endRender.beside ?_⟩
        rw [if_neg nofun, if_neg nofun]
        exact (if_pos roomy).mpr ⟨rfl, rfl, congrArg (·.control.error) plays.outer,
          congrArg (·.control.errCause) plays.outer, outLen, words⟩
      · obtain ⟨commanded, mb⟩ := plays.fatalEntry .fail
        refine ⟨_, exec_cmdRender_of_fatal accepted legal fatal, commanded.beside ?_⟩
        rw [if_neg nofun, if_neg nofun]
        exact (if_neg cramped).mpr ⟨rfl, rfl, rfl, rfl, rfl, mb⟩

end Sys2Proof.Machine
end

section
/-! The reset state: its registers, a render straight after it, and the invariant (`70_reset_and_hazards.md` R380). -/

namespace Sys2Proof.Machine

theorem isValid_reset (v : Fin 10) : State.reset.isValid v = false := by
  rw [State.isValid, State.reset, vget, Vector.getElem_replicate, Slot.blank]

theorem mixRender_reset (P : Params) :
    mixRender P (State.reset.beginCommand .rendering) = .ok ((), (State.reset.beginCommand .rendering).setOutLen 0) :=
  mixRender_of_empty (List.any_eq_false.2 fun v _ => Bool.eq_false_iff.1 (isValid_reset v))

/-- Settles O57: no slot is valid, so that a render takes its empty way. -/
theorem resetState : Obligations.ResetState := by
  have legal : State.reset.cfg.legal = true := by decide
  have render := exec_cmdRender_of_rendered rfl legal (mixRender_reset _)
  exact ⟨rfl, rfl, rfl, rfl, rfl, rfl, isValid_reset, rfl, rfl, rfl, rfl, rfl, rfl, _, render, rfl, rfl⟩

/-- Settles O58: the state after reset is what a reset makes of itself. -/
theorem invariantAtReset : Obligations.InvariantAtReset := inv_blockReset State.reset

end Sys2Proof.Machine
end

section
/-! A voice beside the mix: what the mixer keeps is neither read nor written while a voice is rendered
(`45_mixer.md` R305; `70_reset_and_hazards.md` R382), so that two renders of one slot agree whatever they are mixed
into. -/

namespace Sys2Proof.Machine

/-- The state with what only the mixer uses taken from another state: the loop region, the mixer registers and the mix
buffer. -/
def State.remixed (s t : State) : State :=
  ((s.setCfg { s.cfg with loopBegin := t.cfg.loopBegin, loopEnd := t.cfg.loopEnd }).setMix t.mix).setMb t.mb

theorem State.score_remixed {s t : State} (slot : s.cfg.slot = t.cfg.slot) : (s.remixed t).score = t.score :=
  congrArg (fun x => { t.score with slot := x }) slot

/-- A loop whose body commutes with a map commutes with it. -/
theorem forUp_hom {σ : Type} (h : σ → σ) {f : Nat → σ → σ} (comm : ∀ n s, f n (h s) = h (f n s))
    (start count : Nat) (s : σ) : forUp f start count (h s) = h (forUp f start count s) :=
  forUp_related (R := fun _ x y => x = h y) (fun n _ y same => same ▸ comm n y) count rfl

section
variable (P : Params) (s t : State)

/-- A choice commutes where both its ways do and the condition is the same. -/
theorem ite_remixed {c : Prop} [Decidable c] {x y x' y' : State} (hx : x' = x.remixed t) (hy : y' = y.remixed t) :
    (if c then x' else y') = (if c then x else y).remixed t := by
  rw [hx, hy, apply_ite (State.remixed · t)]

/-! ### The synthesis -/

theorem State.oscPartial_remixed (i : Fin 10) (f a : Word) :
    (s.remixed t).oscPartial P i f a = (s.oscPartial P i f a).remixed t :=
  ite_remixed t rfl rfl

theorem State.oscSample_remixed : (s.remixed t).oscSample P = (s.oscSample P).remixed t := by
  rw [State.oscSample_eq, State.oscSample_eq]
  refine List.foldl_hom (State.remixed · t) (init := s.beforePartials) fun u i => ?_
  exact (u.atI i).oscPartial_remixed P t i _ _

theorem State.voiceSynth_remixed : (s.remixed t).voiceSynth P = (s.voiceSynth P).remixed t :=
  forUp_hom (State.remixed · t) (fun n u => (u.atN n).oscSample_remixed P t) _ _ (s.atStage .synth)

/-! ### The stages after it -/

theorem State.gateStep_remixed : (s.remixed t).gateStep P = (s.gateStep P).remixed t := by
  rw [State.gateStep_eq, State.gateStep_eq]
  rfl

theorem State.gateStage_remixed : (s.remixed t).gateStage P = (s.gateStage P).remixed t :=
  forUp_hom (State.remixed · t) (fun n u => (u.atN n).gateStep_remixed P t) _ _ ((s.atStage .gate).gateInit P)

theorem State.afterLoop_remixed (start count : Nat) :
    (s.remixed t).afterLoop start count = (s.afterLoop start count).remixed t :=
  ite_remixed t rfl rfl

theorem State.echoApply_remixed : (s.remixed t).echoApply = s.echoApply.remixed t :=
  ((s.atStage .echo).setVb (s.vb.echo s.vs.echoDelay.toNat s.vs.count.toNat s.voice.echoMix)).afterLoop_remixed t _ _

theorem State.voiceClip_remixed : (s.remixed t).voiceClip = s.voiceClip.remixed t :=
  ((s.atStage .clip).setVb (s.vb.clip s.vs.count.toNat)).afterLoop_remixed t _ _

theorem State.fltPrepared_remixed (n : Nat) : (s.remixed t).fltPrepared P n = (s.fltPrepared P n).remixed t :=
  ite_remixed t rfl rfl

theorem State.fltSample_remixed (n : Nat) : (s.remixed t).fltSample P n = (s.fltSample P n).remixed t := by
  rw [State.fltSample_eq, State.fltSample_eq, State.fltPrepared_remixed]
  rfl

theorem State.filterStart_remixed : (s.remixed t).filterStart = s.filterStart.remixed t :=
  ite_remixed t rfl rfl

theorem State.fltApply_remixed : (s.remixed t).fltApply P = (s.fltApply P).remixed t := by
  rw [State.fltApply_eq, State.fltApply_eq, State.filterStart_remixed]
  exact forUp_hom (State.remixed · t) (fun n u => u.fltSample_remixed P t n) _ _ _

theorem State.voiceStages_remixed : (s.remixed t).voiceStages P = (s.voiceStages P).remixed t := by
  have voice : (s.remixed t).voice = s.voice := rfl
  simp only [State.voiceStages_eq, State.beforeClip, voice, State.gateStage_remixed, ← apply_ite (State.remixed · t),
    State.echoApply_remixed, State.fltApply_remixed, State.voiceClip_remixed]

/-! ### Two renders of one slot -/

variable {s} {u : State}

/-- The voice being rendered is the slot's. -/
theorem State.voice_congr (slot : s.cfg.slot = u.cfg.slot) (voice : s.seq.voice = u.seq.voice) : s.voice = u.voice := by
  rw [State.voice, State.voice, State.voiceOf, State.voiceOf, slot, voice]

/-- After the setup the two renders agree in all that the stages read, once the one is mixed into what the other is. -/
theorem State.afterSetup_sounding (slot : s.cfg.slot = u.cfg.slot) (voice : s.seq.voice = u.seq.voice) :
    (s.afterSetup P).Sounding s.voice ((u.afterSetup P).remixed s) := by
  have paired : s.Paired s.voice ((u.remixed s).setVb s.vb) :=
    ⟨(State.score_remixed slot.symm).symm, rfl, (State.voice_congr slot voice).symm, rfl⟩
  exact paired.afterSetup

/-- The stages of the two renders leave the same samples. -/
theorem State.voiceStages_congr (slot : s.cfg.slot = u.cfg.slot) (voice : s.seq.voice = u.seq.voice) :
    (((s.afterSetup P).voiceSynth P).voiceStages P).Prepared s.voice
      ((((u.afterSetup P).voiceSynth P).voiceStages P).remixed s) := by
  rw [← State.voiceStages_remixed, ← State.voiceSynth_remixed]
  exact (State.afterSetup_sounding P slot voice).voiceSynth.voiceStages

end

/-- Settles O23: by the three ends of the setup, which the slot's voice decides alone; where both acquire a buffer,
every stage reads the same in both. -/
theorem voicesShareNothing : Obligations.VoicesShareNothing := by
  intro s u slot voice
  have same := State.voice_congr slot voice
  by_cases short : s.voice.duration.toNat < Config.params.minDuration
  · refine ⟨_, _, exec_voiceRender_of_short short, exec_voiceRender_of_short (same ▸ short), rfl, ?_⟩
    rw [if_pos (Voice.supplied_of_short short)]
    exact fun some => absurd rfl some
  rw [Voice.supplied_of_long short]
  cases supplied : Config.params.supplies (ms2s s.voice.duration.toNat) with
  | false =>
    refine ⟨_, _, exec_voiceRender_of_fatal (voiceSetup_of_unsupplied short supplied),
      exec_voiceRender_of_fatal (voiceSetup_of_unsupplied (same ▸ short) (same ▸ supplied)), ?_, ?_⟩
    · exact congrArg (fun V : Voice => BitVec.ofNat 32 (ms2s V.duration.toNat)) same
    · exact ⟨rfl, rfl, rfl, rfl⟩
  | true =>
    have prepared := State.voiceStages_congr Config.params slot voice
    exact ⟨_, _, exec_voiceRender_of_supplied short supplied,
      exec_voiceRender_of_supplied (same ▸ short) (same ▸ supplied), prepared.regs.count, fun _ => prepared.words⟩

end Sys2Proof.Machine
end
